-- ==== Sys2Proof/Word.lean ====
section
/-! DEFINITION. The plain value types of UPGC: a byte, a 32-bit register word, a colour and its three channels. -/

namespace Sys2Proof

/-- One cell of a byte memory (spec/10_state.md R41). -/
abbrev Byte := BitVec 8

/-- One register of space REG, read and written whole (spec/10_state.md R21). -/
abbrev Word := BitVec 32

/-- A colour: a triple (r, g, b) of integers 0..255 (spec/00_scope.md R15). One cell of memory SMP. -/
structure Colour where
  r : Byte
  g : Byte
  b : Byte
  deriving DecidableEq, Repr

/-- The three channels of a colour (spec/00_scope.md R15). -/
inductive Channel where
  | r
  | g
  | b
  deriving DecidableEq, Repr

end Sys2Proof
end

