-- ==== Sys2Proof/Config.lean ====
section
/-! DEFINITION. What an implementation fixes (the OPEN parameters of spec/00_scope.md R10) and the free values: the
values the spec calls unspecified, as constants without a body, so that no proof can see what they are. -/

namespace Sys2Proof

/-- The nine address spaces (spec/20_memory.md R61): the register bank and the eight memories. -/
inductive Space where
  | reg
  | pix
  | smp
  | pal
  | idx
  | pfx
  | sfx
  | csb
  | gif
  deriving DecidableEq, Repr

/-- The working registers whose value is unspecified after reset (spec/10_state.md R53). -/
inductive WorkReg where
  | pos | w | k | next | cw | acc | nbits | optr
  | count | stride | nsmp | ncolw | gptr
  deriving DecidableEq, Repr

/-- The OPEN parameters MAXPIX, CSBCAP and GIFCAP (spec/00_scope.md R10), arguments of the model. -/
structure Params where
  /-- MAXPIX: the largest pixel count and index count. -/
  maxPix : Nat
  /-- CSBCAP: the cells of CSB. -/
  csbCap : Nat
  /-- GIFCAP: the cells of GIF. -/
  gifCap : Nat
  deriving DecidableEq, Repr

/-- The constraints of spec/00_scope.md R10 on the three parameters. -/
abbrev Params.Ok (p : Params) : Prop :=
  (1 ≤ p.maxPix ∧ p.maxPix ≤ 2 ^ 30 - 1) ∧ (4 ≤ p.csbCap ∧ p.csbCap < 2 ^ 32) ∧ (807 ≤ p.gifCap ∧ p.gifCap < 2 ^ 32)

/-- BASE[space], the physical base address of a host-visible space: OPEN, no rule depends on it
(spec/20_memory.md R70, spec/93 U17; log 7). -/
opaque Config.base : Space → Nat

/-- FREE VALUE (log 5). What a cell of a memory holds that no agent has written since its contents were last
unspecified: `drawnCell space draw address`, fixed until written (spec/93 U1, U4, U6, U8). A byte takes the low 8 bits, a
code the low 12, a colour all 24. -/
opaque Config.drawnCell : Space → Nat → Nat → BitVec 24

/-- FREE VALUE (log 9). What a byte at or beyond the length register holds after a successful run:
`drawnTail space draw address` (spec/70_reset_and_hazards.md R256, spec/93 U5). -/
opaque Config.drawnTail : Space → Nat → Nat → Byte

/-- FREE VALUE (log 4, log 8). What a working register holds when its contents become unspecified:
`drawnReg draw register`, cut to the register's width (spec/93 U4, U6, U9). -/
opaque Config.drawnReg : Nat → WorkReg → Word

/-- FREE VALUE (log 12). What a host read of a data space returns while BUSY = 1, drawn per read (spec/93 U3). -/
opaque Config.drawnRead : Nat → Byte

end Sys2Proof
end

