-- ==== Sys2Proof/Syntax.lean ====
section
/-! DEFINITION. The instructions of UPGC: one constructor for each row of spec/opcode_table.json. The rows of format CMD are
the host's commands, the rows of format STEP the sequencer's steps. -/

namespace Sys2Proof

/-- The four cases of phase L_LOOP (spec/43_lzw.md R189): the `case` field of the four table rows that share PHASE 19.
`fin` is the table's END. -/
inductive LoopCase where
  | extend
  | insert
  | reset
  | fin
  deriving DecidableEq, Repr

/-- Every row of spec/opcode_table.json. No row has an operand (spec/30_encoding.md R84); RESERVED carries its two fields. -/
inductive Instr where
  /-- NOP, spec/40_commands.md R111. -/
  | nop
  /-- QUANT, spec/40_commands.md R113. -/
  | quant
  /-- FRAME, spec/40_commands.md R114. -/
  | frame
  /-- LZW, spec/40_commands.md R115. -/
  | lzw
  /-- BUILD, spec/40_commands.md R116. -/
  | build
  /-- CLR, spec/40_commands.md R118. -/
  | clr
  /-- SRST, spec/40_commands.md R119. -/
  | srst
  /-- A reserved command word with its fields ZERO and OP, spec/40_commands.md R117. -/
  | reserved (zero : BitVec 24) (op : BitVec 8)
  /-- Q_CHECK, spec/41_quantizer.md R131. -/
  | qCheck
  /-- Q_SAMPLE, spec/41_quantizer.md R133. -/
  | qSample
  /-- Q_CUT, spec/41_quantizer.md R135. -/
  | qCut
  /-- Q_PAD, spec/41_quantizer.md R142. -/
  | qPad
  /-- Q_MAP, spec/41_quantizer.md R144. -/
  | qMap
  /-- F_CHECK, spec/42_gif_framer.md R161. -/
  | fCheck
  /-- F_HEAD, spec/42_gif_framer.md R162. -/
  | fHead
  /-- F_GCT, spec/42_gif_framer.md R163. -/
  | fGct
  /-- F_GCE, spec/42_gif_framer.md R164. -/
  | fGce
  /-- F_IMG, spec/42_gif_framer.md R165. -/
  | fImg
  /-- F_DATA, spec/42_gif_framer.md R166. -/
  | fData
  /-- F_TRAIL, spec/42_gif_framer.md R167. -/
  | fTrail
  /-- L_CHECK, spec/43_lzw.md R186. -/
  | lCheck
  /-- L_INIT, spec/43_lzw.md R187. -/
  | lInit
  /-- L_FIRST, spec/43_lzw.md R188. -/
  | lFirst
  /-- L_LOOP.EXTEND, spec/43_lzw.md R190. -/
  | lLoopExtend
  /-- L_LOOP.INSERT, spec/43_lzw.md R191. -/
  | lLoopInsert
  /-- L_LOOP.RESET, spec/43_lzw.md R192. -/
  | lLoopReset
  /-- L_LOOP.END, spec/43_lzw.md R193. -/
  | lLoopEnd
  /-- L_FINISH, spec/43_lzw.md R194. -/
  | lFinish
  deriving DecidableEq, Repr

end Sys2Proof
end

