-- ==== Sys2Proof/WellFormed.lean ====
section
/-! DEFINITION. Which instruction terms an encoding exists for. Only RESERVED has fields, and only it can be ill formed: its
word must match none of the seven rows before it (spec/30_encoding.md R82). -/

namespace Sys2Proof

/-- The opcodes of spec/30_encoding.md R81. -/
def assignedOps : List (BitVec 8) := [0x00, 0x01, 0x02, 0x03, 0x04, 0x0E, 0x0F]

/-- A reserved command word: OP in 0x05..0x0D or 0x10..0xFF, or bits 31:8 not all 0 with any OP
(spec/30_encoding.md R82). -/
def reservedWord (zero : BitVec 24) (op : BitVec 8) : Bool := zero != 0 || !assignedOps.contains op

/-- An instruction term that stands for an encoding of the table. -/
def Instr.wellFormed : Instr → Bool
  | .nop => true
  | .quant => true
  | .frame => true
  | .lzw => true
  | .build => true
  | .clr => true
  | .srst => true
  | .reserved zero op => reservedWord zero op
  | .qCheck => true
  | .qSample => true
  | .qCut => true
  | .qPad => true
  | .qMap => true
  | .fCheck => true
  | .fHead => true
  | .fGct => true
  | .fGce => true
  | .fImg => true
  | .fData => true
  | .fTrail => true
  | .lCheck => true
  | .lInit => true
  | .lFirst => true
  | .lLoopExtend => true
  | .lLoopInsert => true
  | .lLoopReset => true
  | .lLoopEnd => true
  | .lFinish => true

end Sys2Proof
end

