-- ==== Sys2Proof/Decode.lean ====
section
/-! DEFINITION. The two encodings of UPGC (spec/30_encoding.md R80 to R83): the 32-bit command word and the 5-bit PHASE value
with, at L_LOOP, the case of spec/43_lzw.md R189. The decoder is total and rejects by name; the encoder stands after it. -/

namespace Sys2Proof

/-- What an instruction is selected by. A command word, or a PHASE value; `case` is the `case` field of the table's rows and is
read at PHASE 19 only (spec/30_encoding.md R83; log 16). -/
inductive Code where
  | cmd (word : Word)
  | step (phase : BitVec 5) (case : LoopCase)
  deriving DecidableEq, Repr

/-- Why a code names no instruction. -/
inductive Reject where
  /-- PHASE = 0: the sequencer is stopped, there is no step (spec/10_state.md R34). -/
  | idle
  /-- PHASE in 6, 7, 15, 21..31: no rule (spec/10_state.md R34, spec/93 U16). -/
  | noSuchPhase (phase : BitVec 5)
  deriving DecidableEq, Repr

/-- A row of format CMD: it applies to a word that agrees with `value` under `mask` (spec/30_encoding.md R81). -/
structure CommandRow where
  value : Word
  mask : Word
  instr : Instr
  deriving DecidableEq, Repr

/-- The seven assigned rows of spec/30_encoding.md R81. -/
def commandRows : List CommandRow :=
  [ ⟨0x00000000, 0xFFFFFFFF, .nop⟩,
    ⟨0x00000001, 0xFFFFFFFF, .quant⟩,
    ⟨0x00000002, 0xFFFFFFFF, .frame⟩,
    ⟨0x00000003, 0xFFFFFFFF, .lzw⟩,
    ⟨0x00000004, 0xFFFFFFFF, .build⟩,
    ⟨0x0000000E, 0xFFFFFFFF, .clr⟩,
    ⟨0x0000000F, 0xFFFFFFFF, .srst⟩ ]

/-- The command a word written to CMD stands for; a word that matches no row is the RESERVED row, of lowest priority
(spec/30_encoding.md R80 to R82). -/
def decodeCommand (w : Word) : Instr :=
  match commandRows.find? (fun r => w &&& r.mask == r.value) with
  | some r => r.instr
  | none => .reserved (w.extractLsb' 8 24) (w.extractLsb' 0 8)

/-- A row of format STEP: its PHASE value and, at L_LOOP, its case (spec/30_encoding.md R83). -/
structure StepRow where
  phase : BitVec 5
  case : Option LoopCase
  instr : Instr
  deriving DecidableEq, Repr

/-- The twenty step rows, PHASE values of spec/10_state.md R34. -/
def stepRows : List StepRow :=
  [ ⟨1, none, .qCheck⟩,
    ⟨2, none, .qSample⟩,
    ⟨3, none, .qCut⟩,
    ⟨4, none, .qPad⟩,
    ⟨5, none, .qMap⟩,
    ⟨8, none, .fCheck⟩,
    ⟨9, none, .fHead⟩,
    ⟨10, none, .fGct⟩,
    ⟨11, none, .fGce⟩,
    ⟨12, none, .fImg⟩,
    ⟨13, none, .fData⟩,
    ⟨14, none, .fTrail⟩,
    ⟨16, none, .lCheck⟩,
    ⟨17, none, .lInit⟩,
    ⟨18, none, .lFirst⟩,
    ⟨19, some .extend, .lLoopExtend⟩,
    ⟨19, some .insert, .lLoopInsert⟩,
    ⟨19, some .reset, .lLoopReset⟩,
    ⟨19, some .fin, .lLoopEnd⟩,
    ⟨20, none, .lFinish⟩ ]

/-- Whether a step row is the one that PHASE and the case select. -/
def StepRow.applies (r : StepRow) (phase : BitVec 5) (case : LoopCase) : Bool :=
  r.phase == phase && (r.case == none || r.case == some case)

/-- The step a PHASE value selects, with the case of spec/43_lzw.md R189 for L_LOOP. -/
def decodeStep (phase : BitVec 5) (case : LoopCase) : Except Reject Instr :=
  match stepRows.find? (fun r => r.applies phase case) with
  | some r => .ok r.instr
  | none => .error (if phase = 0 then .idle else .noSuchPhase phase)

/-- The decoder: total, and it rejects a PHASE value that names no step by name. -/
def decode : Code → Except Reject Instr
  | .cmd w => .ok (decodeCommand w)
  | .step phase case => decodeStep phase case

/-- The encoder, written from spec/30_encoding.md R81 and spec/10_state.md R34. A step row outside L_LOOP carries `fin`, which
the decoder does not read there. -/
def encode : Instr → Code
  | .nop => .cmd 0x00000000
  | .quant => .cmd 0x00000001
  | .frame => .cmd 0x00000002
  | .lzw => .cmd 0x00000003
  | .build => .cmd 0x00000004
  | .clr => .cmd 0x0000000E
  | .srst => .cmd 0x0000000F
  | .reserved zero op => .cmd (zero ++ op)
  | .qCheck => .step 0x01 .fin
  | .qSample => .step 0x02 .fin
  | .qCut => .step 0x03 .fin
  | .qPad => .step 0x04 .fin
  | .qMap => .step 0x05 .fin
  | .fCheck => .step 0x08 .fin
  | .fHead => .step 0x09 .fin
  | .fGct => .step 0x0A .fin
  | .fGce => .step 0x0B .fin
  | .fImg => .step 0x0C .fin
  | .fData => .step 0x0D .fin
  | .fTrail => .step 0x0E .fin
  | .lCheck => .step 0x10 .fin
  | .lInit => .step 0x11 .fin
  | .lFirst => .step 0x12 .fin
  | .lLoopExtend => .step 0x13 .extend
  | .lLoopInsert => .step 0x13 .insert
  | .lLoopReset => .step 0x13 .reset
  | .lLoopEnd => .step 0x13 .fin
  | .lFinish => .step 0x14 .fin

/-- The instruction of a table word. A row of format STEP has 8 bits (PHASE is the low 5, mask 0x1F), a row of format CMD
has 32. The four L_LOOP rows share one word and differ in a condition on the state, which a word does not hold: for it the
answer is L_LOOP.END, the case the state after reset selects (POS = LEN = 0; log 16). -/
def decodeTableWord (nbits w : Nat) : Option Instr :=
  if nbits ≤ 8 then (decode (.step (BitVec.ofNat 5 w) .fin)).toOption
  else (decode (.cmd (BitVec.ofNat 32 w))).toOption

end Sys2Proof
end

