-- ==== Sys2Proof/Machine/State.lean ====
section
/-! DEFINITION. The state of UPGC (spec/10_state.md R20): the register bank, the sequencer's and the units' registers, the eight
memories; beside them the model's own fields (parameters, the host's moves, its replies, the draw counter). Plain data. -/

namespace Sys2Proof.Machine

/-- A memory of cells of type α (spec/10_state.md R41): the written cells as (address, cell) pairs, addresses strictly rising,
and the draw that gives the cells nothing has written their free values (log 5). `Memory Byte` lists `Host.Cell` pairs. -/
structure Memory (α : Type) where
  cells : List (Nat × α)
  draw : Nat
  deriving DecidableEq, Repr

/-- The fields of register STATUS (spec/10_state.md R23). -/
structure Status where
  busy : Bool
  done : Bool
  err : Bool
  errCode : BitVec 4
  unit : BitVec 2
  deriving DecidableEq, Repr

/-- The fields of register IE (spec/10_state.md R24). -/
structure IrqEnable where
  doneIe : Bool
  errIe : Bool
  deriving DecidableEq, Repr

/-- The three units (spec/00_scope.md R2). -/
inductive UnitName where
  | qnt
  | frm
  | lzw
  deriving DecidableEq, Repr

/-- The error names of spec/60_exceptions.md R220. -/
inductive ErrName where
  | badCmd
  | shape
  | empty
  | resource
  | config
  | symbol
  deriving DecidableEq, Repr

/-- The host's primitives (spec/20_memory.md R61): `addr` is a byte offset in the space, `n` the width in bytes. A write
carries the low n bytes of `v`. -/
inductive HostAccess where
  | memRead (space : Space) (addr n : Nat)
  | memWrite (space : Space) (addr n : Nat) (v : Word)
  deriving DecidableEq, Repr

/-- What the outside world does next (log 1): a host access, the assertion of RST (spec/70_reset_and_hazards.md R250), letting
the sequencer take one step, or WAIT until BUSY = 0 (spec/30_encoding.md R101). -/
inductive HostMove where
  | access (a : HostAccess)
  | rst
  | pass
  | wait
  deriving DecidableEq, Repr

/-- The machine. Fields of the spec first, in the order of spec/10_state.md; the model's own fields last. -/
structure State where
  /-- STATUS, R23 -/
  status : Status
  /-- IE, R24 -/
  ie : IrqEnable
  /-- WIDTH, R25 -/
  width : BitVec 16
  /-- HEIGHT, R25 -/
  height : BitVec 16
  /-- PIXLEN, R26 -/
  pixlen : BitVec 32
  /-- LEN, R27 -/
  len : BitVec 32
  /-- MINCS, R28 -/
  mincs : BitVec 4
  /-- CSBLEN, R29 -/
  csblen : BitVec 32
  /-- GIFLEN, R30 -/
  giflen : BitVec 32
  /-- NCOL, R31 -/
  ncol : BitVec 9
  /-- PHASE, R34 -/
  phase : BitVec 5
  /-- CHAIN, R35 -/
  chain : Bool
  /-- POS, R36 -/
  pos : BitVec 32
  /-- W, R37 -/
  w : BitVec 12
  /-- K, R37 -/
  k : Byte
  /-- NEXT, R37 -/
  next : BitVec 13
  /-- CW, R37 -/
  cw : BitVec 4
  /-- ACC, R37 -/
  acc : BitVec 19
  /-- NBITS, R37 -/
  nbits : BitVec 5
  /-- OPTR, R37 -/
  optr : BitVec 32
  /-- COUNT, R39 -/
  count : BitVec 32
  /-- STRIDE, R39 -/
  stride : BitVec 17
  /-- NSMP, R39 -/
  nsmp : BitVec 17
  /-- NCOLW, R39 -/
  ncolw : BitVec 9
  /-- GPTR, R40 -/
  gptr : BitVec 32
  /-- PIX, R42 -/
  pix : Memory Byte
  /-- SMP, R43 -/
  smp : Memory Colour
  /-- PAL, R44 -/
  pal : Memory Byte
  /-- IDX, R45 -/
  idx : Memory Byte
  /-- PFX, R46 -/
  pfx : Memory (BitVec 12)
  /-- SFX, R46 -/
  sfx : Memory Byte
  /-- CSB, R47 -/
  csb : Memory Byte
  /-- GIF, R48 -/
  gif : Memory Byte
  /-- MAXPIX, CSBCAP, GIFCAP: parameters of the model, which no step changes (log 6) -/
  params : Params
  /-- the outside world's moves still to come, next first (log 1) -/
  host : List HostMove
  /-- what the host's reads returned, newest first (log 18) -/
  replies : List Word
  /-- the number of the next draw of a free value (log 21) -/
  draws : Nat
  deriving DecidableEq, Repr

/-- Why the machine stops. No run from an accepted command reaches one (spec/60_exceptions.md R227). -/
inductive Fault where
  /-- PHASE is 6, 7, 15 or 21..31 and names no step (spec/93 U16). Raised by step; safe (log 14). -/
  | noStep (phase : BitVec 5)
  /-- A unit would touch a cell the memory does not have (spec/20_memory.md R61). Raised by the meanings of the steps that
  address a memory; safe (log 15). -/
  | noSuchCell (space : Space)
  deriving DecidableEq, Repr

/-- Why the model gives no next state. -/
inductive Refusal where
  /-- The instruction has no meaning yet. Raised by exec's arms only; safe. -/
  | notModelled (mnemonic : String)
  /-- A host access outside the interface: the host has no such move (spec/20_memory.md R62, spec/93 U2). Raised by step
  on a host access; safe (log 13). -/
  | hostAccess
  /-- An L_LOOP case asked for in a state where spec/43_lzw.md R189 selects another. Raised by the meanings of the four
  L_LOOP rows, never through step; safe (log 17). -/
  | loopCaseNotSelected (case : LoopCase)
  deriving DecidableEq, Repr

/-- How a step of a unit leaves off before its end: `raise E_x` (spec/60_exceptions.md R228), or a fault of the model. -/
inductive Stop where
  | raise (e : ErrName)
  | fault (f : Fault)
  deriving DecidableEq, Repr

/-- The three outcomes of a step of this machine. -/
abbrev Out := Host.Outcome State Fault Refusal

/-- A memory no cell of which has been written: every cell holds its drawn value. -/
abbrev Memory.unwritten {α : Type} (draw : Nat) : Memory α := ⟨[], draw⟩

/-- The parameters of the machine that reset describes: the largest image, and buffers that never overflow
(DESIGN CHOICE, log 6). -/
def defaultParams : Params := { maxPix := 2 ^ 30 - 1, csbCap := 2 ^ 31 + 2, gifCap := 2 ^ 32 - 1 }

/-- The state after hardware reset (spec/10_state.md R53). The working registers' zeros are the model's choice (log 3). -/
def State.reset : State where
  status := { busy := false, done := false, err := false, errCode := 0, unit := 0 }
  ie := { doneIe := false, errIe := false }
  width := 0
  height := 0
  pixlen := 0
  len := 0
  mincs := 8
  csblen := 0
  giflen := 0
  ncol := 0
  phase := 0
  chain := false
  pos := 0
  w := 0
  k := 0
  next := 0
  cw := 0
  acc := 0
  nbits := 0
  optr := 0
  count := 0
  stride := 0
  nsmp := 0
  ncolw := 0
  gptr := 0
  pix := .unwritten 0
  smp := .unwritten 0
  pal := .unwritten 0
  idx := .unwritten 0
  pfx := .unwritten 0
  sfx := .unwritten 0
  csb := .unwritten 0
  gif := .unwritten 0
  params := defaultParams
  host := []
  replies := []
  draws := 1

end Sys2Proof.Machine
end

