-- ==== Sys2Proof/Machine/Operands.lean ====
section
/-! DEFINITION. What the rules read: the constants of spec/00_scope.md R9, the phase numbers of spec/10_state.md R34, the
functions of MINCS (R38), memory cells, pixels and palette entries, the register map (R21), and small number helpers. -/

namespace Sys2Proof.Machine

/-! ## Constants -/

/-- PALSIZE, spec/00_scope.md R9. -/
def palSize : Nat := 256
/-- MAXENT, the dictionary size at which the table is full, spec/00_scope.md R9. -/
def maxEnt : Nat := 4096
/-- MAXCW, the largest code width, spec/00_scope.md R9. -/
def maxCw : Nat := 12
/-- GIF_MINCS, spec/00_scope.md R9. -/
def gifMincs : BitVec 4 := 8
/-- SAMPLE_THRESHOLD, spec/00_scope.md R9. -/
def sampleThreshold : Nat := 100000
/-- SAMPLE_DIVISOR, spec/00_scope.md R9. -/
def sampleDivisor : Nat := 50000
/-- CUT_DEPTH, spec/00_scope.md R9. -/
def cutDepth : Nat := 8
/-- SUBBLK_MAX, spec/00_scope.md R9. -/
def subBlkMax : Nat := 255
/-- LSD_PACKED, spec/00_scope.md R9. -/
def lsdPacked : Byte := 0xF7
/-- TRAILER, spec/00_scope.md R9. -/
def trailer : Byte := 0x3B
/-- IMGSEP, spec/00_scope.md R9. -/
def imgSep : Byte := 0x2C
/-- SMPCAP, the cells of SMP, spec/00_scope.md R10. -/
def smpCap : Nat := 100000

/-! ## Phase numbers (spec/10_state.md R34) -/

abbrev phIdle : BitVec 5 := 0
abbrev phQCheck : BitVec 5 := 1
abbrev phQSample : BitVec 5 := 2
abbrev phQCut : BitVec 5 := 3
abbrev phQPad : BitVec 5 := 4
abbrev phQMap : BitVec 5 := 5
abbrev phFCheck : BitVec 5 := 8
abbrev phFHead : BitVec 5 := 9
abbrev phFGct : BitVec 5 := 10
abbrev phFGce : BitVec 5 := 11
abbrev phFImg : BitVec 5 := 12
abbrev phFData : BitVec 5 := 13
abbrev phFTrail : BitVec 5 := 14
abbrev phLCheck : BitVec 5 := 16
abbrev phLInit : BitVec 5 := 17
abbrev phLFirst : BitVec 5 := 18
abbrev phLLoop : BitVec 5 := 19
abbrev phLFinish : BitVec 5 := 20

/-! ## Numbers -/

/-- ceil(a / b) for b > 0 (spec/00_scope.md R12). -/
def ceilDiv (a b : Nat) : Nat := (a + b - 1) / b

/-- bits 7..0 of a 16-bit register, the byte a little-endian field stores first (spec/20_memory.md R65 (c)). -/
def lowByte (v : BitVec 16) : Byte := v.extractLsb' 0 8

/-- bits 15..8 of a 16-bit register. -/
def highByte (v : BitVec 16) : Byte := v.extractLsb' 8 8

/-! ## Colours -/

/-- c.ch (spec/00_scope.md R15). -/
def channel (c : Colour) : Channel → Byte
  | .r => c.r
  | .g => c.g
  | .b => c.b

/-- BLACK (spec/00_scope.md R15). -/
def black : Colour := ⟨0, 0, 0⟩

/-! ## Functions of MINCS (spec/10_state.md R38) -/

/-- CLR = 2^MINCS. -/
def State.clr (s : State) : Nat := 2 ^ s.mincs.toNat
/-- EOI = CLR + 1. -/
def State.eoi (s : State) : Nat := s.clr + 1
/-- FIRST = CLR + 2. -/
def State.first (s : State) : Nat := s.clr + 2

/-! ## Reading memories -/

/-- The cell a list of written cells holds at an address, if it holds one. -/
def cellsGet {α : Type} : List (Nat × α) → Nat → Option α
  | [], _ => none
  | (a, v) :: rest, k => if a = k then some v else cellsGet rest k

/-- The written cell at an address, if there is one. -/
def Memory.get? {α : Type} (m : Memory α) (a : Nat) : Option α := cellsGet m.cells a

/-- The cell at an address: what was written there, else the free value drawn for it (spec/20_memory.md R63, spec/93 U1). -/
def Memory.read {α : Type} (drawn : Nat → Nat → α) (m : Memory α) (a : Nat) : α := (m.get? a).getD (drawn m.draw a)

/-- The free value of an unwritten byte cell (log 5). -/
def drawnByte (sp : Space) (draw a : Nat) : Byte := (Config.drawnCell sp draw a).extractLsb' 0 8
/-- The free value of an unwritten PFX cell (log 5). -/
def drawnCode (draw a : Nat) : BitVec 12 := (Config.drawnCell .pfx draw a).extractLsb' 0 12
/-- The free value of an unwritten SMP cell (log 5). -/
def drawnColour (draw a : Nat) : Colour :=
  let v := Config.drawnCell .smp draw a
  ⟨v.extractLsb' 0 8, v.extractLsb' 8 8, v.extractLsb' 16 8⟩

/-- PIX[a] -/
def State.pixAt (s : State) (a : Nat) : Byte := s.pix.read (drawnByte .pix) a
/-- SMP[a] -/
def State.smpAt (s : State) (a : Nat) : Colour := s.smp.read drawnColour a
/-- PAL[a] -/
def State.palAt (s : State) (a : Nat) : Byte := s.pal.read (drawnByte .pal) a
/-- IDX[a] -/
def State.idxAt (s : State) (a : Nat) : Byte := s.idx.read (drawnByte .idx) a
/-- PFX[a] -/
def State.pfxAt (s : State) (a : Nat) : BitVec 12 := s.pfx.read drawnCode a
/-- SFX[a] -/
def State.sfxAt (s : State) (a : Nat) : Byte := s.sfx.read (drawnByte .sfx) a
/-- CSB[a] -/
def State.csbAt (s : State) (a : Nat) : Byte := s.csb.read (drawnByte .csb) a
/-- GIF[a] -/
def State.gifAt (s : State) (a : Nat) : Byte := s.gif.read (drawnByte .gif) a

/-- How many cells a memory has, and how many bytes of REG are implemented (spec/20_memory.md R61). -/
def cellCount (p : Params) : Space → Nat
  | .reg => 44
  | .pix => 4 * p.maxPix
  | .smp => smpCap
  | .pal => 3 * palSize
  | .idx => p.maxPix
  | .pfx => maxEnt
  | .sfx => maxEnt
  | .csb => p.csbCap
  | .gif => p.gifCap

/-- `col(p)`, the colour of pixel p; the alpha byte is not read (spec/41_quantizer.md R132). -/
def State.col (s : State) (p : Nat) : Colour := ⟨s.pixAt (4 * p), s.pixAt (4 * p + 1), s.pixAt (4 * p + 2)⟩

/-- PAL_i, entry i of the palette (spec/10_state.md R44). -/
def State.palEntry (s : State) (i : Nat) : Colour := ⟨s.palAt (3 * i), s.palAt (3 * i + 1), s.palAt (3 * i + 2)⟩

/-- `Lookup(w, k)`: the c with FIRST ≤ c < NEXT, PFX[c] = w and SFX[c] = k (spec/43_lzw.md R182). At most one such c exists
(spec/10_state.md R51 (5)); where a state no run reaches holds several, the smallest (log 26). -/
def State.lookup (s : State) (w : BitVec 12) (k : Byte) : Option Nat :=
  (List.range' s.first (s.next.toNat - s.first)).find? (fun c => s.pfxAt c == w && s.sfxAt c == k)

/-! ## Registers of space REG, by name (spec/10_state.md R21) -/

/-- The eleven registers. -/
inductive RegName where
  | cmd | status | ie | width | height | pixlen | len | mincs | csblen | giflen | ncol
  deriving DecidableEq, Repr

/-- The byte offset of a register. -/
def RegName.offset : RegName → Nat
  | .cmd => 0x00
  | .status => 0x04
  | .ie => 0x08
  | .width => 0x0C
  | .height => 0x10
  | .pixlen => 0x14
  | .len => 0x18
  | .mincs => 0x1C
  | .csblen => 0x20
  | .giflen => 0x24
  | .ncol => 0x28

/-- The register at a byte offset; other offsets name none (spec/10_state.md R32). -/
def regAt (offset : Nat) : Option RegName :=
  match offset with
  | 0x00 => some .cmd
  | 0x04 => some .status
  | 0x08 => some .ie
  | 0x0C => some .width
  | 0x10 => some .height
  | 0x14 => some .pixlen
  | 0x18 => some .len
  | 0x1C => some .mincs
  | 0x20 => some .csblen
  | 0x24 => some .giflen
  | 0x28 => some .ncol
  | _ => none

/-- The physical address of a byte of a host-visible space (spec/20_memory.md R70; log 7). -/
def physicalAddress (sp : Space) (offset : Nat) : Nat := Config.base sp + offset

end Sys2Proof.Machine
end

