-- ==== Sys2Proof/Machine/Flags.lean ====
section
/-! DEFINITION. The flags of UPGC: the STATUS and IE registers as words, every way a rule sets or clears STATUS, and the IRQ line
(spec/10_state.md R23, R24, R49). -/

namespace Sys2Proof.Machine

/-- STATUS.ERRCODE of each error (spec/60_exceptions.md R220). -/
def ErrName.code : ErrName → BitVec 4
  | .badCmd => 1
  | .shape => 2
  | .empty => 3
  | .resource => 4
  | .config => 5
  | .symbol => 6

/-- STATUS.UNIT of each unit; 0 is none (spec/10_state.md R23). -/
def UnitName.number : UnitName → BitVec 2
  | .qnt => 1
  | .frm => 2
  | .lzw => 3

/-- STATUS as a 32-bit word: [0] BUSY, [1] DONE, [2] ERR, [7:4] ERRCODE, [9:8] UNIT, other bits 0 (spec/10_state.md R21). -/
def Status.word (f : Status) : Word :=
  (0 : BitVec 22) ++ f.unit ++ f.errCode ++ (0 : BitVec 1) ++ BitVec.ofBool f.err ++ BitVec.ofBool f.done ++
    BitVec.ofBool f.busy

/-- IE as a 32-bit word: [0] DONE_IE, [1] ERR_IE (spec/10_state.md R21). -/
def IrqEnable.word (e : IrqEnable) : Word := (0 : BitVec 30) ++ BitVec.ofBool e.errIe ++ BitVec.ofBool e.doneIe

/-- What a write to IE stores; the other bits are ignored (spec/10_state.md R21). -/
def IrqEnable.ofWord (v : Word) : IrqEnable := { doneIe := v.getLsbD 0, errIe := v.getLsbD 1 }

/-- STATUS after an accepted run command (spec/40_commands.md R112). -/
def Status.launched (u : UnitName) : Status :=
  { busy := true, done := false, err := false, errCode := 0, unit := u.number }

/-- STATUS after the completion that ends a run: UNIT keeps the unit that just completed (spec/40_commands.md R121). -/
def Status.completed (f : Status) : Status := { f with busy := false, done := true }

/-- STATUS when a chained completion starts the next unit (spec/40_commands.md R121). -/
def Status.chainedTo (f : Status) (u : UnitName) : Status := { f with unit := u.number }

/-- STATUS after error entry: UNIT names the unit that failed (spec/60_exceptions.md R228). -/
def Status.failed (f : Status) (e : ErrName) : Status :=
  { f with busy := false, done := false, err := true, errCode := e.code }

/-- STATUS after a reserved command: UNIT is 0, BUSY stays as it is (spec/40_commands.md R117). -/
def Status.badCommand (f : Status) : Status :=
  { f with done := false, err := true, errCode := ErrName.badCmd.code, unit := 0 }

/-- STATUS after CLR (spec/40_commands.md R118). -/
def Status.cleared (f : Status) : Status := { f with done := false, err := false, errCode := 0, unit := 0 }

/-- STATUS after SRST or reset (spec/10_state.md R53). -/
def Status.atReset : Status := { busy := false, done := false, err := false, errCode := 0, unit := 0 }

/-- The output line IRQ = (DONE and DONE_IE) or (ERR and ERR_IE); it holds no state (spec/10_state.md R49). -/
def State.irq (s : State) : Bool := (s.status.done && s.ie.doneIe) || (s.status.err && s.ie.errIe)

end Sys2Proof.Machine
end

