-- ==== Sys2Proof/Machine/Ops.lean ====
section
/-! DEFINITION. The operations the meanings share: writing memories, the register map, launch, unit completion, TAKING AN ERROR
(error entry, UPGC's exception), values becoming unspecified, and the output primitives of the framer and the compressor. -/

namespace Sys2Proof.Machine

/-! ## Memories -/

/-- A list of written cells after a write: the order of the addresses is kept, a cell written before is replaced. -/
def cellsPut {α : Type} : List (Nat × α) → Nat → α → List (Nat × α)
  | [], k, v => [(k, v)]
  | (a, x) :: rest, k, v =>
    if k < a then (k, v) :: (a, x) :: rest
    else if k = a then (k, v) :: rest
    else (a, x) :: cellsPut rest k v

/-- M[a] <- v (spec/00_scope.md R13). -/
def Memory.put {α : Type} (m : Memory α) (a : Nat) (v : α) : Memory α := { m with cells := cellsPut m.cells a v }

/-- M[a], M[a + 1], ... <- the values of a list. The cells differ, so the order of the writes does not matter. -/
def Memory.putList {α : Type} (m : Memory α) (a : Nat) : List α → Memory α
  | [] => m
  | v :: vs => (m.putList (a + 1) vs).put a v

/-- The cells at and beyond `len` become unspecified: each written one now holds a free value; an unwritten one holds one
already (spec/70_reset_and_hazards.md R256, spec/93 U5; log 9). -/
def Memory.forgetFrom (sp : Space) (len draw : Nat) (m : Memory Byte) : Memory Byte :=
  { m with cells := m.cells.map (fun c => (c.1, if c.1 < len then c.2 else Config.drawnTail sp draw c.1)) }

/-- A successful run in which QNT ran has ended: the cells of IDX at and beyond LEN become unspecified
(spec/70_reset_and_hazards.md R256, spec/93 U5; log 9). Under BUILD that is when FRM completes: until then, and in a run that
fails, they hold what they held (spec/20_memory.md R69). -/
def State.forgetIdxTail (s : State) : State :=
  { s with idx := s.idx.forgetFrom .idx s.len.toNat s.draws, draws := s.draws + 1 }

/-- The canonical form of a memory: addresses strictly rising. An unlisted address holds no written value, so no entry can
equal what an unlisted address holds, and equal written contents are equal lists. -/
abbrev Memory.wf {α : Type} (m : Memory α) : Prop := m.cells.Pairwise (fun x y => x.1 < y.1)

/-- Every written cell exists: its address is below the number of cells. -/
abbrev Memory.within {α : Type} (m : Memory α) (n : Nat) : Prop := ∀ c ∈ m.cells, c.1 < n

/-- A meaning that touches cells of a memory: the next state if the cells exist, else the model's fault (log 15). -/
def ifCells (exist : Prop) [Decidable exist] (sp : Space) (t : State) : Out :=
  if exist then .next t else .fault (.noSuchCell sp)

/-! ## The register map (spec/10_state.md R21, R32) -/

/-- The value a read of a register returns; bits that are in no field read 0, CMD reads 0. -/
def State.readReg (s : State) : RegName → Word
  | .cmd => 0
  | .status => s.status.word
  | .ie => s.ie.word
  | .width => s.width.setWidth 32
  | .height => s.height.setWidth 32
  | .pixlen => s.pixlen
  | .len => s.len
  | .mincs => s.mincs.setWidth 32
  | .csblen => s.csblen
  | .giflen => s.giflen
  | .ncol => s.ncol.setWidth 32

/-- The effect of a write on a register other than CMD: read-only registers and the bits in no field ignore it. A write to
CMD is a command and is not executed here (spec/10_state.md R22). -/
def State.writeReg (s : State) (r : RegName) (v : Word) : State :=
  match r with
  | .cmd => s
  | .status => s
  | .ie => { s with ie := IrqEnable.ofWord v }
  | .width => { s with width := v.extractLsb' 0 16 }
  | .height => { s with height := v.extractLsb' 0 16 }
  | .pixlen => { s with pixlen := v }
  | .len => { s with len := v }
  | .mincs => { s with mincs := v.extractLsb' 0 4 }
  | .csblen => s
  | .giflen => s
  | .ncol => s

/-! ## Commands, launch, completion -/

/-- A command takes effect if and only if BUSY = 0 at the write; else it is ignored (spec/40_commands.md R110). -/
def accepted (s t : State) : Out := .next (if s.status.busy then s else t)

/-- Launch, the common part of the run commands (spec/40_commands.md R112): the length registers are zeroed by each command
itself, for the units it will run. -/
def State.launch (s : State) (u : UnitName) (chain : Bool) (phase : BitVec 5) : State :=
  { s with status := Status.launched u, chain := chain, phase := phase }

/-- Unit completion (spec/40_commands.md R121). -/
def State.complete (s : State) (u : UnitName) : State :=
  if s.chain = true ∧ u = .qnt then { s with status := s.status.chainedTo .lzw, phase := phLCheck }
  else if s.chain = true ∧ u = .lzw then { s with status := s.status.chainedTo .frm, phase := phFCheck }
  else { s with status := s.status.completed, chain := false, phase := phIdle }

/-! ## Errors -/

/-- TAKING AN ERROR: error entry, the effect of `raise E_x` in a step (spec/60_exceptions.md R228). It ends the run and records
the code; nothing is saved, there is no handler and no return from it (R229, R232): the host's next run command starts
afresh with `State.launch`, and `execClr` clears the flags. -/
def State.errorEntry (s : State) (e : ErrName) : State :=
  { s with status := s.status.failed e, chain := false, phase := phIdle }

/-- CSB, the dictionary and the LZW working registers become unspecified, as they are after an LZW run that ended in E_SYMBOL
or in E_RESOURCE from PutByte (spec/60_exceptions.md R229, spec/93 U4; log 8). -/
def State.forgetLzw (s : State) : State :=
  { s with
    pos := Config.drawnReg s.draws .pos
    w := (Config.drawnReg s.draws .w).extractLsb' 0 12
    k := (Config.drawnReg s.draws .k).extractLsb' 0 8
    next := (Config.drawnReg s.draws .next).extractLsb' 0 13
    cw := (Config.drawnReg s.draws .cw).extractLsb' 0 4
    acc := (Config.drawnReg s.draws .acc).extractLsb' 0 19
    nbits := (Config.drawnReg s.draws .nbits).extractLsb' 0 5
    optr := Config.drawnReg s.draws .optr
    pfx := .unwritten s.draws
    sfx := .unwritten s.draws
    csb := .unwritten s.draws
    draws := s.draws + 1 }

/-- Hardware reset, the RST input asserted and released (spec/70_reset_and_hazards.md R250, spec/10_state.md R53): REG, PHASE and
CHAIN take their reset values; the working registers and every memory cell become unspecified, so they take free values
(spec/93 U6, U9; log 4). The model's own fields stay. -/
def State.hardReset (s : State) : State :=
  { State.reset with
    pos := Config.drawnReg s.draws .pos
    w := (Config.drawnReg s.draws .w).extractLsb' 0 12
    k := (Config.drawnReg s.draws .k).extractLsb' 0 8
    next := (Config.drawnReg s.draws .next).extractLsb' 0 13
    cw := (Config.drawnReg s.draws .cw).extractLsb' 0 4
    acc := (Config.drawnReg s.draws .acc).extractLsb' 0 19
    nbits := (Config.drawnReg s.draws .nbits).extractLsb' 0 5
    optr := Config.drawnReg s.draws .optr
    count := Config.drawnReg s.draws .count
    stride := (Config.drawnReg s.draws .stride).extractLsb' 0 17
    nsmp := (Config.drawnReg s.draws .nsmp).extractLsb' 0 17
    ncolw := (Config.drawnReg s.draws .ncolw).extractLsb' 0 9
    gptr := Config.drawnReg s.draws .gptr
    pix := .unwritten s.draws
    smp := .unwritten s.draws
    pal := .unwritten s.draws
    idx := .unwritten s.draws
    pfx := .unwritten s.draws
    sfx := .unwritten s.draws
    csb := .unwritten s.draws
    gif := .unwritten s.draws
    params := s.params
    host := s.host
    replies := s.replies
    draws := s.draws + 1 }

/-! ## The framer's output primitive -/

/-- `PutG(b)`: GIF[GPTR] <- b; GPTR <- GPTR + 1 (spec/42_gif_framer.md R168). -/
def State.putG (s : State) (b : Byte) : State := { s with gif := s.gif.put s.gptr.toNat b, gptr := s.gptr + 1 }

/-- PutG of each byte of a list, in order. -/
def State.putGs (s : State) : List Byte → State
  | [] => s
  | b :: bs => (s.putG b).putGs bs

/-! ## The compressor's primitives -/

/-- `PutByte(b)` (spec/43_lzw.md R184). OPTR never exceeds CSBCAP in a run; beyond it there is no cell (log 15). -/
def putByte (b : Byte) (s : State) : Except Stop State :=
  if s.optr.toNat = s.params.csbCap then .error (.raise .resource)
  else if s.params.csbCap < s.optr.toNat then .error (.fault (.noSuchCell .csb))
  else .ok { s with csb := s.csb.put s.optr.toNat b, optr := s.optr + 1 }

/-- The loop of EmitCode: while NBITS ≥ 8 the low byte of ACC is written and ACC shifted right by 8 (spec/43_lzw.md R183).
The first argument bounds the passes. -/
def drainAcc : Nat → State → Except Stop State
  | 0, s => .ok s
  | passes + 1, s =>
    if s.nbits.toNat < 8 then .ok s
    else
      match putByte (s.acc.extractLsb' 0 8) s with
      | .ok t => drainAcc passes { t with acc := t.acc >>> 8, nbits := t.nbits - 8 }
      | .error e => .error e

/-- `EmitCode(c, n)`, the bit packer (spec/43_lzw.md R183). NBITS has 5 bits, so three passes always empty the buffer of
whole bytes. -/
def emitCode (c n : Nat) (s : State) : Except Stop State :=
  drainAcc 3
    { s with
      acc := s.acc ||| (BitVec.ofNat 19 c <<< s.nbits.toNat)
      nbits := s.nbits + BitVec.ofNat 5 n }

/-- `Sym(i)`: K <- IDX[i], and E_SYMBOL if it is CLR or above, which a byte can be only for MINCS < 8
(spec/43_lzw.md R185, spec/60_exceptions.md R226). -/
def readSymbol (i : Nat) (s : State) : Except Stop State :=
  if i < s.params.maxPix then
    if s.mincs.toNat < 8 ∧ s.clr ≤ (s.idxAt i).toNat then .error (.raise .symbol) else .ok { s with k := s.idxAt i }
  else .error (.fault (.noSuchCell .idx))

/-- How a step of the LZW unit ends: its next state; error entry, with CSB and the LZW registers unspecified
(spec/60_exceptions.md R228, R229); or a fault of the model. -/
def lzwOutcome (s : State) : Except Stop State → Out
  | .ok t => .next t
  | .error (.raise e) => .next (s.forgetLzw.errorEntry e)
  | .error (.fault f) => .fault f

end Sys2Proof.Machine
end

