-- ==== Sys2Proof/Machine/Commands.lean ====
section
/-! DEFINITION. The meanings of the host's commands (spec/40_commands.md R111 to R119), each at the accepted CMD write. -/

namespace Sys2Proof.Machine

/-- NOP: no state changes (R111). -/
def execNop (s : State) : Out := accepted s s

/-- QUANT: launch QNT; NCOL <- 0 (R113, R112). -/
def execQuant (s : State) : Out := accepted s ({ s with ncol := 0 }.launch .qnt false phQCheck)

/-- FRAME: launch FRM; GIFLEN <- 0 (R114, R112). -/
def execFrame (s : State) : Out := accepted s ({ s with giflen := 0 }.launch .frm false phFCheck)

/-- LZW: launch LZW; CSBLEN <- 0 (R115, R112). -/
def execLzw (s : State) : Out := accepted s ({ s with csblen := 0 }.launch .lzw false phLCheck)

/-- BUILD: launch QNT with CHAIN = 1; all three length registers <- 0; MINCS <- 8 (R116, R112). -/
def execBuild (s : State) : Out :=
  accepted s ({ s with ncol := 0, csblen := 0, giflen := 0, mincs := gifMincs }.launch .qnt true phQCheck)

/-- CLR: STATUS.DONE, ERR, ERRCODE, UNIT <- 0 (R118). -/
def execClr (s : State) : Out := accepted s { s with status := s.status.cleared }

/-- SRST: every register of REG takes its reset value, PHASE <- IDLE, CHAIN <- 0; memories and working registers are unchanged
(R119, spec/10_state.md R53). -/
def execSrst (s : State) : Out :=
  accepted s
    { s with
      status := Status.atReset
      ie := { doneIe := false, errIe := false }
      width := 0
      height := 0
      pixlen := 0
      len := 0
      mincs := 8
      csblen := 0
      giflen := 0
      ncol := 0
      phase := phIdle
      chain := false }

/-- A reserved command word: E_BADCMD is recorded with UNIT 0, nothing runs; nothing of the word is kept (R117,
spec/60_exceptions.md R221). -/
def execReserved (_zero : BitVec 24) (_op : BitVec 8) (s : State) : Out :=
  accepted s { s with status := s.status.badCommand }

end Sys2Proof.Machine
end

