-- ==== Sys2Proof/Machine/Framer.lean ====
section
/-! DEFINITION. The GIF framer FRM: the meanings of its steps (spec/42_gif_framer.md R161 to R167). -/

namespace Sys2Proof.Machine

/-- 802 + L + ceil(L / 255), the length of the file for L compressed bytes (R160, R161). -/
def gifLength (csblen : Nat) : Nat := 802 + csblen + ceilDiv csblen subBlkMax

/-- F_CHECK (R161): the three tests in this order. -/
def execFCheck (s : State) : Out :=
  if s.mincs ≠ gifMincs then .next (s.errorEntry .config)
  else if s.width = 0 ∨ s.height = 0 ∨ s.csblen = 0 then .next (s.errorEntry .empty)
  else if s.params.gifCap < gifLength s.csblen.toNat then .next (s.errorEntry .resource)
  else .next { s with gptr := 0, phase := phFHead }

/-- A step that writes bytes to GIF and goes to another phase. -/
def State.frameStep (s : State) (bytes : List Byte) (phase : BitVec 5) : Out :=
  ifCells (s.gptr.toNat + bytes.length ≤ s.params.gifCap) .gif { s.putGs bytes with phase := phase }

/-- Signature "GIF89a" and Logical Screen Descriptor (R162, spec/30_encoding.md R91, R92). -/
def State.headBytes (s : State) : List Byte :=
  [0x47, 0x49, 0x46, 0x38, 0x39, 0x61, lowByte s.width, highByte s.width, lowByte s.height, highByte s.height, lsdPacked,
    0x00, 0x00]

/-- F_HEAD (R162). -/
def execFHead (s : State) : Out := s.frameStep s.headBytes phFGct

/-- The Global Colour Table: PAL[0 .. 767] (R163). -/
def State.gctBytes (s : State) : List Byte := (List.range (3 * palSize)).map s.palAt

/-- F_GCT (R163). -/
def execFGct (s : State) : Out := s.frameStep s.gctBytes phFGce

/-- The Graphic Control Extension (R164, spec/30_encoding.md R94). -/
def gceBytes : List Byte := [0x21, 0xF9, 0x04, 0x00, 0x00, 0x00, 0x00, 0x00]

/-- F_GCE (R164). -/
def execFGce (s : State) : Out := s.frameStep gceBytes phFImg

/-- Image Descriptor and LZW minimum code size (R165, spec/30_encoding.md R95, R96). -/
def State.imgBytes (s : State) : List Byte :=
  [imgSep, 0x00, 0x00, 0x00, 0x00, lowByte s.width, highByte s.width, lowByte s.height, highByte s.height, 0x00, 0x08]

/-- F_IMG (R165). -/
def execFImg (s : State) : Out := { s with pos := 0 }.frameStep s.imgBytes phFData

/-- n = min(255, CSBLEN - POS) (R166). -/
def State.subBlockLen (s : State) : Nat := min subBlkMax (s.csblen.toNat - s.pos.toNat)

/-- A sub-block: its length byte, then CSB[POS .. POS + n - 1] (R166). -/
def State.subBlock (s : State) : List Byte :=
  BitVec.ofNat 8 s.subBlockLen :: (List.range s.subBlockLen).map (fun i => s.csbAt (s.pos.toNat + i))

/-- F_DATA, one sub-block (R166). -/
def execFData (s : State) : Out :=
  let pos := s.pos + BitVec.ofNat 32 s.subBlockLen
  if s.pos.toNat + s.subBlockLen ≤ s.params.csbCap then
    { s with pos := pos }.frameStep s.subBlock (if pos = s.csblen then phFTrail else s.phase)
  else .fault (.noSuchCell .csb)

/-- The end of FRM: GIFLEN <- GPTR; complete (R167). GIF at and beyond GIFLEN is unspecified then, and where that ends a
successful BUILD run, in which QNT wrote LEN and IDX, so is IDX at and beyond LEN (spec/70_reset_and_hazards.md R256; log 9). -/
def State.finishFrm (s : State) : State :=
  let t :=
    { s with
      giflen := s.gptr
      gif := s.gif.forgetFrom .gif s.gptr.toNat s.draws
      draws := s.draws + 1 }.complete .frm
  if s.chain then t.forgetIdxTail else t

/-- F_TRAIL: block terminator and trailer (R167). -/
def execFTrail (s : State) : Out :=
  ifCells (s.gptr.toNat + 2 ≤ s.params.gifCap) .gif (s.putGs [0x00, trailer]).finishFrm

end Sys2Proof.Machine
end

