-- ==== Sys2Proof/Machine/Lzw.lean ====
section
/-! DEFINITION. The LZW compressor: the case selection of phase L_LOOP and the meanings of its steps
(spec/43_lzw.md R186 to R194). -/

namespace Sys2Proof.Machine

/-- L_CHECK (R186): the three tests in this order. -/
def execLCheck (s : State) : Out :=
  if s.mincs.toNat < 2 ∨ 8 < s.mincs.toNat then .next (s.errorEntry .config)
  else if s.len = 0 then .next (s.errorEntry .empty)
  else if s.params.maxPix < s.len.toNat then .next (s.errorEntry .resource)
  else .next { s with pos := 0, optr := 0, acc := 0, nbits := 0, phase := phLInit }

/-- The seeded state of the dictionary and the starting code width: NEXT <- FIRST; CW <- MINCS + 1 (R187, R192). -/
def State.seed (s : State) : State := { s with next := BitVec.ofNat 13 s.first, cw := s.mincs + 1 }

/-- L_INIT (R187). -/
def execLInit (s : State) : Out :=
  lzwOutcome s
    (match emitCode s.clr s.seed.cw.toNat s.seed with
      | .ok t => .ok { t with phase := phLFirst }
      | .error e => .error e)

/-- L_FIRST (R188). -/
def execLFirst (s : State) : Out :=
  lzwOutcome s
    (match readSymbol 0 s with
      | .ok t => .ok { t with w := t.k.setWidth 12, pos := 1, phase := phLLoop }
      | .error e => .error e)

/-- The case of L_LOOP that the state before the step selects (R189, and the conditions of spec/opcode_table.json). -/
def State.loopCase (s : State) : LoopCase :=
  if s.pos = s.len then .fin
  else
    match s.lookup s.w (s.idxAt s.pos.toNat) with
    | some _ => .extend
    | none => if s.next.toNat < maxEnt then .insert else .reset

/-- An L_LOOP row is executed in the states its case is selected in (log 17). -/
def State.inCase (s : State) (c : LoopCase) (o : Out) : Out :=
  if s.loopCase = c then o else .refused (.loopCaseNotSelected c)

/-- The common beginning of the three consuming cases: Sym(POS); POS <- POS + 1 (R189). -/
def consumeSymbol (s : State) : Except Stop State :=
  match readSymbol s.pos.toNat s with
  | .ok t => .ok { t with pos := t.pos + 1 }
  | .error e => .error e

/-- Case EXTEND: W <- c with Lookup(W, K) = c (R190). -/
def execLLoopExtend (s : State) : Out :=
  s.inCase .extend
    (lzwOutcome s
      (match consumeSymbol s with
        | .ok t => .ok { t with w := BitVec.ofNat 12 ((t.lookup t.w t.k).getD 0) }
        | .error e => .error e))

/-- The insertion of INSERT, after the emission: the entry, NEXT, the growth of CW, the new prefix (R191). -/
def State.insertEntry (s : State) : State :=
  let n := s.next.toNat
  { s with
    pfx := s.pfx.put n s.w
    sfx := s.sfx.put n s.k
    next := s.next + 1
    cw := if 2 ^ s.cw.toNat < n + 1 ∧ s.cw.toNat < maxCw then s.cw + 1 else s.cw
    w := s.k.setWidth 12 }

/-- Case INSERT (R191). -/
def execLLoopInsert (s : State) : Out :=
  s.inCase .insert
    (lzwOutcome s
      (match consumeSymbol s with
        | .ok t =>
          match emitCode t.w.toNat t.cw.toNat t with
          | .ok u => .ok u.insertEntry
          | .error e => .error e
        | .error e => .error e))

/-- Case RESET (R192). -/
def execLLoopReset (s : State) : Out :=
  s.inCase .reset
    (lzwOutcome s
      (match consumeSymbol s with
        | .ok t =>
          match emitCode t.w.toNat t.cw.toNat t with
          | .ok u =>
            match emitCode u.clr u.cw.toNat u with
            | .ok v => .ok { v.seed with w := v.k.setWidth 12 }
            | .error e => .error e
          | .error e => .error e
        | .error e => .error e))

/-- Case END (R193). -/
def execLLoopEnd (s : State) : Out := s.inCase .fin (.next { s with phase := phLFinish })

/-- The flush of L_FINISH: a partial trailing byte, padded with zero bits (R194). -/
def flushAcc (s : State) : Except Stop State :=
  if 0 < s.nbits.toNat then
    match putByte (s.acc.extractLsb' 0 8) s with
    | .ok t => .ok { t with acc := 0, nbits := 0 }
    | .error e => .error e
  else .ok s

/-- The end of LZW: CSBLEN <- OPTR; complete (R194). CSB at and beyond CSBLEN is unspecified
(spec/70_reset_and_hazards.md R256; log 9). -/
def State.finishLzw (s : State) : State :=
  { s with
    csblen := s.optr
    csb := s.csb.forgetFrom .csb s.optr.toNat s.draws
    draws := s.draws + 1 }.complete .lzw

/-- L_FINISH (R194). -/
def execLFinish (s : State) : Out :=
  lzwOutcome s
    (match emitCode s.w.toNat s.cw.toNat s with
      | .ok t =>
        match emitCode t.eoi t.cw.toNat t with
        | .ok u =>
          match flushAcc u with
          | .ok v => .ok v.finishLzw
          | .error e => .error e
        | .error e => .error e
      | .error e => .error e)

end Sys2Proof.Machine
end

