-- ==== Sys2Proof/Machine/Quantizer.lean ====
section
/-! DEFINITION. The quantizer QNT: its pure functions (spec/41_quantizer.md R136 to R145) and the meanings of its steps
(R131 to R144). -/

namespace Sys2Proof.Machine

/-! ## The median cut -/

/-- max over B of c.ch; 0 for an empty bucket, which no rule asks about. -/
def maxOf (B : List Colour) (ch : Channel) : Nat := B.foldl (fun m c => max m (channel c ch).toNat) 0

/-- min over B of c.ch; 255 for an empty bucket, which no rule asks about. -/
def minOf (B : List Colour) (ch : Channel) : Nat := B.foldl (fun m c => min m (channel c ch).toNat) 255

/-- range_ch = max - min (R137). -/
def rangeOf (B : List Colour) (ch : Channel) : Nat := maxOf B ch - minOf B ch

/-- `widest(B)`: the channel with the largest range, ties broken R > G > B (R137). -/
def widest (B : List Colour) : Channel :=
  if rangeOf B .g ≤ rangeOf B .r ∧ rangeOf B .b ≤ rangeOf B .r then .r
  else if rangeOf B .b ≤ rangeOf B .g then .g
  else .b

/-- `sorted_by(B, ch)`: ascending in c.ch and stable: for each value from 0 to 255 in turn, the colours of B with that value, in
the order they have in B (R138). -/
def sortedBy (B : List Colour) (ch : Channel) : List Colour :=
  (List.range 256).flatMap (fun v => B.filter (fun c => (channel c ch).toNat == v))

/-- The sum of c.ch over B (R140). -/
def sumOf (B : List Colour) (ch : Channel) : Nat := (B.map (fun c => (channel c ch).toNat)).sum

/-- The mean of a channel rounded to the nearest integer, an exact half up (R140). -/
def meanOf (B : List Colour) (ch : Channel) : Byte := BitVec.ofNat 8 ((2 * sumOf B ch + B.length) / (2 * B.length))

/-- `mean(B)`; BLACK for an empty bucket (R140). -/
def mean (B : List Colour) : Colour :=
  if B.isEmpty then black else ⟨meanOf B .r, meanOf B .g, meanOf B .b⟩

/-- `cut(B, d)`, the remaining depth first (R136, R139). -/
def cut : Nat → List Colour → List Colour
  | 0, B => [mean B]
  | d + 1, B =>
    if B.isEmpty then [mean B]
    else
      let S := sortedBy B (widest B)
      cut d (S.take (S.length / 2)) ++ cut d (S.drop (S.length / 2))

/-! ## Nearest colour -/

/-- The difference of two channel values, squared (R143). -/
def sqDiff (a b : Byte) : Nat := (((a.toNat : Int) - b.toNat) * ((a.toNat : Int) - b.toNat)).toNat

/-- `dist2(c, e)` (R143). -/
def dist2 (c e : Colour) : Nat := sqDiff c.r e.r + sqDiff c.g e.g + sqDiff c.b e.b

/-- The largest squared distance, 3 × 255² (R143). -/
def maxDist2 : Nat := 195075

/-- The first index of a palette at which the distance to c is the smallest of all (R145). -/
def nearestIn (palette : List Colour) (c : Colour) : Nat :=
  let ds := palette.map (dist2 c)
  ds.idxOf (ds.foldl min maxDist2)

/-- The 256 palette entries (spec/10_state.md R44). -/
def State.palette (s : State) : List Colour := (List.range palSize).map s.palEntry

/-- `nearest(c)` (R145). -/
def State.nearest (s : State) (c : Colour) : Nat := nearestIn s.palette c

/-! ## Steps -/

/-- COUNT as Q_CHECK computes it (R131). -/
def State.pixelCount (s : State) : Nat := s.width.toNat * s.height.toNat

/-- Q_CHECK (R131): the three tests in this order; COUNT is written before them. -/
def execQCheck (s : State) : Out :=
  let t := { s with count := BitVec.ofNat 32 s.pixelCount }
  if s.pixelCount = 0 then .next (t.errorEntry .empty)
  else if s.params.maxPix < s.pixelCount then .next (t.errorEntry .resource)
  else if s.pixlen.toNat ≠ 4 * s.pixelCount then .next (t.errorEntry .shape)
  else .next { t with phase := phQSample }

/-- STRIDE: 1, or floor(COUNT / 50000) when COUNT exceeds 100000 (R133). -/
def sampleStride (count : Nat) : Nat := if sampleThreshold < count then count / sampleDivisor else 1

/-- NSMP = ceil(COUNT / STRIDE) (R133). -/
def sampleCount (count : Nat) : Nat := ceilDiv count (sampleStride count)

/-- The sampled colours: col(0), col(STRIDE), col(2 STRIDE), ... (R133). -/
def State.samples (s : State) : List Colour :=
  (List.range (sampleCount s.count.toNat)).map (fun j => s.col (j * sampleStride s.count.toNat))

/-- Q_SAMPLE (R133). -/
def execQSample (s : State) : Out :=
  ifCells (s.count.toNat ≤ s.params.maxPix) .pix
    { s with
      stride := BitVec.ofNat 17 (sampleStride s.count.toNat)
      nsmp := BitVec.ofNat 17 (sampleCount s.count.toNat)
      smp := s.smp.putList 0 s.samples
      phase := phQCut }

/-- SMP[0 .. NSMP) (R135). -/
def State.bucket (s : State) : List Colour := (List.range s.nsmp.toNat).map s.smpAt

/-- The bytes of palette entries, r, g, b in turn (spec/10_state.md R44). -/
def paletteBytes (cols : List Colour) : List Byte := cols.flatMap (fun c => [c.r, c.g, c.b])

/-- Q_CUT (R135). SMP is left permuted and dead; its contents are unspecified (spec/10_state.md R43, spec/93 U8; log 10). -/
def execQCut (s : State) : Out :=
  let cols := cut cutDepth s.bucket
  ifCells (s.nsmp.toNat ≤ smpCap) .smp
    { s with
      ncolw := BitVec.ofNat 9 cols.length
      pal := s.pal.putList 0 (paletteBytes cols)
      smp := .unwritten s.draws
      draws := s.draws + 1
      phase := phQPad }

/-- Q_PAD (R142). -/
def execQPad (s : State) : Out :=
  .next
    { s with
      pal := s.pal.putList (3 * s.ncolw.toNat) (paletteBytes (List.replicate (palSize - s.ncolw.toNat) black))
      pos := 0
      phase := phQMap }

/-- The end of QNT: LEN <- COUNT; NCOL <- NCOLW; complete (R144). Where that ends a successful run, IDX at and beyond LEN is
unspecified then; under BUILD the run goes on and no other cell of IDX changes (log 9). -/
def State.finishQnt (s : State) : State :=
  let t := { s with len := s.count, ncol := s.ncolw }.complete .qnt
  if s.chain then t else t.forgetIdxTail

/-- Q_MAP, one pixel (R144). -/
def execQMap (s : State) : Out :=
  let t :=
    { s with
      idx := s.idx.put s.pos.toNat (BitVec.ofNat 8 (s.nearest (s.col s.pos.toNat)))
      pos := s.pos + 1 }
  ifCells (s.pos.toNat < s.params.maxPix) .idx (if t.pos = t.count then t.finishQnt else t)

end Sys2Proof.Machine
end

