-- ==== Sys2Proof/Machine/Dispatch.lean ====
section
/-! DEFINITION. One arm for each row of spec/opcode_table.json. -/

namespace Sys2Proof.Machine

def exec (i : Instr) (s : State) : Host.Outcome State Fault Refusal :=
  match i with
  | .nop => Sys2Proof.Machine.execNop s
  | .quant => Sys2Proof.Machine.execQuant s
  | .frame => Sys2Proof.Machine.execFrame s
  | .lzw => Sys2Proof.Machine.execLzw s
  | .build => Sys2Proof.Machine.execBuild s
  | .clr => Sys2Proof.Machine.execClr s
  | .srst => Sys2Proof.Machine.execSrst s
  | .reserved zero op => Sys2Proof.Machine.execReserved zero op s
  | .qCheck => Sys2Proof.Machine.execQCheck s
  | .qSample => Sys2Proof.Machine.execQSample s
  | .qCut => Sys2Proof.Machine.execQCut s
  | .qPad => Sys2Proof.Machine.execQPad s
  | .qMap => Sys2Proof.Machine.execQMap s
  | .fCheck => Sys2Proof.Machine.execFCheck s
  | .fHead => Sys2Proof.Machine.execFHead s
  | .fGct => Sys2Proof.Machine.execFGct s
  | .fGce => Sys2Proof.Machine.execFGce s
  | .fImg => Sys2Proof.Machine.execFImg s
  | .fData => Sys2Proof.Machine.execFData s
  | .fTrail => Sys2Proof.Machine.execFTrail s
  | .lCheck => Sys2Proof.Machine.execLCheck s
  | .lInit => Sys2Proof.Machine.execLInit s
  | .lFirst => Sys2Proof.Machine.execLFirst s
  | .lLoopExtend => Sys2Proof.Machine.execLLoopExtend s
  | .lLoopInsert => Sys2Proof.Machine.execLLoopInsert s
  | .lLoopReset => Sys2Proof.Machine.execLLoopReset s
  | .lLoopEnd => Sys2Proof.Machine.execLLoopEnd s
  | .lFinish => Sys2Proof.Machine.execLFinish s

end Sys2Proof.Machine
end

