-- ==== Sys2Proof/Machine/HostPort.lean ====
section
/-! DEFINITION. The host port: what an access of the host does (spec/20_memory.md R61 to R64), and the host scripts of
spec/30_encoding.md R100, R101 as lists of the host's moves. -/

namespace Sys2Proof.Machine

/-! ## Accesses -/

/-- Whether an access is part of the interface: REG with n = 4 at a multiple of 4; a host-visible data space with n = 1 at an
offset below its size; no write to GIF (spec/20_memory.md R61, R62). -/
def HostAccess.legal (p : Params) : HostAccess → Bool
  | .memRead .reg addr n => n == 4 && addr % 4 == 0
  | .memRead .smp _ _ => false
  | .memRead .pfx _ _ => false
  | .memRead .sfx _ _ => false
  | .memRead sp addr n => n == 1 && decide (addr < cellCount p sp)
  | .memWrite .reg addr n _ => n == 4 && addr % 4 == 0
  | .memWrite .smp _ _ _ => false
  | .memWrite .pfx _ _ _ => false
  | .memWrite .sfx _ _ _ => false
  | .memWrite .gif _ _ _ => false
  | .memWrite sp addr n _ => n == 1 && decide (addr < cellCount p sp)

/-- What a read of REG at an offset returns: the register's value, or 0 where the offset names none
(spec/10_state.md R32). -/
def State.readOffset (s : State) (offset : Nat) : Word :=
  match regAt offset with
  | some r => s.readReg r
  | none => 0

/-- What a write to REG at an offset does; ignored where the offset names no register (spec/10_state.md R32). -/
def State.writeOffset (s : State) (offset : Nat) (v : Word) : State :=
  match regAt offset with
  | some r => s.writeReg r v
  | none => s

/-- The byte a host-visible data space holds at an offset (spec/20_memory.md R63); other spaces are not reached. -/
def State.readData (s : State) (sp : Space) (addr : Nat) : Byte :=
  match sp with
  | .pix => s.pixAt addr
  | .pal => s.palAt addr
  | .idx => s.idxAt addr
  | .csb => s.csbAt addr
  | .gif => s.gifAt addr
  | .reg => 0
  | .smp => 0
  | .pfx => 0
  | .sfx => 0

/-- A host write of a byte to a data space (spec/20_memory.md R63); other spaces are not reached. -/
def State.writeData (s : State) (sp : Space) (addr : Nat) (b : Byte) : State :=
  match sp with
  | .pix => { s with pix := s.pix.put addr b }
  | .pal => { s with pal := s.pal.put addr b }
  | .idx => { s with idx := s.idx.put addr b }
  | .csb => { s with csb := s.csb.put addr b }
  | .gif => s
  | .reg => s
  | .smp => s
  | .pfx => s
  | .sfx => s

/-- A value goes to the host. -/
def State.reply (s : State) (v : Word) : State := { s with replies := v :: s.replies }

/-- A host read. REG works always; a data space returns its cell while BUSY = 0 and an unspecified value while BUSY = 1
(spec/20_memory.md R63, R64, spec/93 U3; log 12). No read changes the state of the machine. -/
def State.hostRead (s : State) (sp : Space) (addr : Nat) : State :=
  if sp = .reg then s.reply (s.readOffset addr)
  else if s.status.busy then { s.reply ((Config.drawnRead s.draws).setWidth 32) with draws := s.draws + 1 }
  else s.reply ((s.readData sp addr).setWidth 32)

/-- A host write other than to CMD: ignored while BUSY = 1 (spec/20_memory.md R63, R64). -/
def State.hostWrite (s : State) (sp : Space) (addr : Nat) (v : Word) : State :=
  if s.status.busy then s
  else if sp = .reg then s.writeOffset addr v
  else s.writeData sp addr (v.extractLsb' 0 8)

/-- A write to CMD, REG offset 0, is a command (spec/10_state.md R22). -/
def isCommandWrite (sp : Space) (addr : Nat) : Bool := sp == .reg && addr == RegName.cmd.offset

/-- A host access: refused outside the interface, a command at CMD, else a read or a write. -/
def hostAccess (a : HostAccess) (s : State) : Out :=
  if a.legal s.params then
    match a with
    | .memRead sp addr _ => .next (s.hostRead sp addr)
    | .memWrite sp addr _ v =>
      if isCommandWrite sp addr then exec (decodeCommand v) s else .next (s.hostWrite sp addr v)
  else .refused .hostAccess

/-! ## Host scripts -/

/-- A line of a host script: the four accesses of spec/30_encoding.md R100 and the pseudo-instructions of R101. A command is
named by its word. -/
inductive ScriptLine where
  | wr (reg : RegName) (v : Word)
  | rd (reg : RegName)
  | wb (space : Space) (a : Nat) (b : Byte)
  | rb (space : Space) (a : Nat)
  | cmd (op : Word)
  | wait
  | run (op : Word)
  | load (space : Space) (a : Nat) (bytes : List Byte)
  | dump (space : Space) (a n : Nat)
  | expect (reg : RegName) (v : Word)
  deriving DecidableEq, Repr

/-- The access of `WR reg, v`. -/
def moveWr (r : RegName) (v : Word) : HostMove := .access (.memWrite .reg r.offset 4 v)
/-- The access of `RD reg`. -/
def moveRd (r : RegName) : HostMove := .access (.memRead .reg r.offset 4)
/-- The access of `WB space, a, b`. -/
def moveWb (sp : Space) (a : Nat) (b : Byte) : HostMove := .access (.memWrite sp a 1 (b.setWidth 32))
/-- The access of `RB space, a`. -/
def moveRb (sp : Space) (a : Nat) : HostMove := .access (.memRead sp a 1)

/-- `WB space, a + i, b_i` in ascending order. -/
def movesLoad (sp : Space) (a : Nat) : List Byte → List HostMove
  | [] => []
  | b :: bs => moveWb sp a b :: movesLoad sp (a + 1) bs

/-- The moves a script line denotes. EXPECT reads the register; its assertion is no action of the hardware (R101). -/
def ScriptLine.moves : ScriptLine → List HostMove
  | .wr r v => [moveWr r v]
  | .rd r => [moveRd r]
  | .wb sp a b => [moveWb sp a b]
  | .rb sp a => [moveRb sp a]
  | .cmd op => [moveWr .cmd op]
  | .wait => [.wait]
  | .run op => [moveWr .cmd op, .wait]
  | .load sp a bytes => movesLoad sp a bytes
  | .dump sp a n => (List.range n).map (fun i => moveRb sp (a + i))
  | .expect r _ => [moveRd r]

/-- The moves of a script. -/
def scriptMoves (lines : List ScriptLine) : List HostMove := lines.flatMap ScriptLine.moves

end Sys2Proof.Machine
end

