-- ==== Sys2Proof/Machine/Sequencer.lean ====
section
/-! DEFINITION. What the sequencer does when it takes a step: it selects the instruction by PHASE, and within L_LOOP by the case of
spec/43_lzw.md R189 (spec/30_encoding.md R83, spec/40_commands.md R120). -/

namespace Sys2Proof.Machine

/-- What selects the next step: PHASE, with the case the state selects. -/
def State.stepCode (s : State) : Code := .step s.phase s.loopCase

/-- One step of the sequencer. While PHASE = IDLE it takes no step (spec/60_exceptions.md R237; log 20). A PHASE value that names
no step is stuck (spec/93 U16; log 14). -/
def sequencerStep (s : State) : Out :=
  match decode s.stepCode with
  | .ok i => exec i s
  | .error .idle => .next s
  | .error (.noSuchPhase p) => .fault (.noStep p)

/-- The outside world's next move, already taken off the list, or the sequencer's step where the move leaves it the turn
(spec/20_memory.md R71; log 1). -/
def takeMove (m : HostMove) (rest : List HostMove) (s : State) : Out :=
  match m with
  | .access a => hostAccess a { s with host := rest }
  | .rst => .next { s with host := rest }.hardReset
  | .pass => sequencerStep { s with host := rest }
  | .wait => if s.status.busy then sequencerStep s else .next { s with host := rest }

/-- The next state: the outside world's next move if there is one, else the sequencer's step. -/
def nextMove (s : State) : Out :=
  match s.host with
  | [] => sequencerStep s
  | m :: rest => takeMove m rest s

/-- A command word stands where the next step takes it: the host's next move writes it to CMD. It is accepted, since no run is
in progress (log 2). -/
def State.withCommand (s : State) (w : Word) : State :=
  { s with
    status := { s.status with busy := false }
    phase := phIdle
    host := moveWr .cmd w :: s.host }

/-- A PHASE value stands where the next step reads it, a run is in progress, and the host leaves the sequencer the turn
(log 2). -/
def State.withPhase (s : State) (p : BitVec 5) : State :=
  { s with
    status := { s.status with busy := true }
    phase := p
    host := .pass :: s.host }

end Sys2Proof.Machine
end

