-- ==== Sys2Proof/Machine/Step.lean ====
section
/-! DEFINITION. One step of the machine, and the state whose next step runs a given table word. -/

namespace Sys2Proof.Machine

/-- One step: a move of the outside world or a step of the sequencer. -/
def step : State → Host.Outcome State Fault Refusal := nextMove

/-- A state whose very next step runs the instruction of a table word: a command word of 32 bits, or a PHASE value of 8. -/
def State.withFetchWord (s : State) (nbits w : Nat) : State :=
  if nbits ≤ 8 then s.withPhase (BitVec.ofNat 5 w) else s.withCommand (BitVec.ofNat 32 w)

end Sys2Proof.Machine
end

