-- ==== Sys2Proof/Machine/Summary.lean ====
section
/-! DEFINITION. The two output formats and the compressor as pure functions, for claims about whole runs: the GIF file
(spec/30_encoding.md R89 to R98), the LZW run as one function (spec/43_lzw.md R195), the packing of codes into bytes
(spec/30_encoding.md R87), and the standard decoder of spec/93_implementation_defined.md G3. No meaning uses them. -/

namespace Sys2Proof.Machine

/-! ## The GIF file -/

/-- The sub-blocks of the image data, greedy (spec/30_encoding.md R97). -/
def subBlocks (csb : List Byte) : List Byte :=
  (List.range (ceilDiv csb.length 255)).flatMap
    (fun j => BitVec.ofNat 8 (min 255 (csb.length - 255 * j)) :: (csb.drop (255 * j)).take 255)

/-- The file of spec/30_encoding.md R89: the eight blocks in order. -/
def gifFile (w h : BitVec 16) (pal csb : List Byte) : List Byte :=
  [0x47, 0x49, 0x46, 0x38, 0x39, 0x61]
    ++ [lowByte w, highByte w, lowByte h, highByte h, 0xF7, 0x00, 0x00]
    ++ pal
    ++ [0x21, 0xF9, 0x04, 0x00, 0x00, 0x00, 0x00, 0x00]
    ++ [0x2C, 0x00, 0x00, 0x00, 0x00, lowByte w, highByte w, lowByte h, highByte h, 0x00]
    ++ [0x08]
    ++ (subBlocks csb ++ [0x00])
    ++ [0x3B]

/-- A reader of image data: at most `fuel` length bytes. It answers the contents of the sub-blocks up to the terminator and
the bytes after it, or none where the data are cut short (spec/42_gif_framer.md R169 (4)). -/
def readSubBlocks : (fuel : Nat) → List Byte → Option (List Byte × List Byte)
  | 0, _ => none
  | _ + 1, [] => none
  | fuel + 1, n :: rest =>
    if n = 0 then some ([], rest)
    else if rest.length < n.toNat then none
    else (readSubBlocks fuel (rest.drop n.toNat)).map (fun r => (rest.take n.toNat ++ r.1, r.2))

/-! ## The code stream -/

/-- A code and the number of bits it is written on. -/
structure CodeOut where
  code : Nat
  bits : Nat
  deriving DecidableEq, Repr

/-- The dictionary of the summary: entries ((prefix code, byte), code), newest first (spec/43_lzw.md R195). -/
abbrev Dict := List ((Nat × Nat) × Nat)

/-- The code of a pair in the dictionary, if it is there. -/
def dictGet : Dict → Nat → Nat → Option Nat
  | [], _, _ => none
  | ((w, k), c) :: rest, w', k' => if w = w' ∧ k = k' then some c else dictGet rest w' k'

/-- The loop of the summary over the bytes that follow the first (spec/43_lzw.md R195): table size, width, dictionary, pending
prefix; the codes it emits, with the two that end the stream. -/
def lzwLoop (mcs : Nat) : List Nat → (next cw : Nat) → Dict → (w : Nat) → List CodeOut
  | [], _, cw, _, w => [⟨w, cw⟩, ⟨2 ^ mcs + 1, cw⟩]
  | k :: rest, next, cw, D, w =>
    match dictGet D w k with
    | some c => lzwLoop mcs rest next cw D c
    | none =>
      if next < 4096 then
        ⟨w, cw⟩ ::
          lzwLoop mcs rest (next + 1) (if 2 ^ cw < next + 1 ∧ cw < 12 then cw + 1 else cw) (((w, k), next) :: D) k
      else ⟨w, cw⟩ :: ⟨2 ^ mcs, cw⟩ :: lzwLoop mcs rest (2 ^ mcs + 2) (mcs + 1) [] k

/-- The codes of a run of the LZW unit on an input (spec/43_lzw.md R195); an empty input has none. -/
def lzwCodes (mcs : Nat) : List Nat → List CodeOut
  | [] => []
  | k :: rest => ⟨2 ^ mcs, mcs + 1⟩ :: lzwLoop mcs rest (2 ^ mcs + 2) (mcs + 1) [] k

/-- The bit string B: each code's bit 0 first (spec/30_encoding.md R87). -/
def codeBits (codes : List CodeOut) : List Bool := codes.flatMap (fun c => (List.range c.bits).map (fun j => c.code.testBit j))

/-- The number whose bit j is bit j of the list, bits beyond it being 0. -/
def bitsValue : List Bool → Nat
  | [] => 0
  | b :: bs => b.toNat + 2 * bitsValue bs

/-- Bit j of B is bit (j mod 8) of byte floor(j / 8); the last byte is padded with zero bits (spec/30_encoding.md R87). -/
def packBits (B : List Bool) : List Byte :=
  (List.range (ceilDiv B.length 8)).map (fun i => BitVec.ofNat 8 (bitsValue ((B.drop (8 * i)).take 8)))

/-- The compressed byte stream of an input (spec/43_lzw.md R195). -/
def lzwStream (mcs : Nat) (idx : List Nat) : List Byte := packBits (codeBits (lzwCodes mcs idx))

/-! ## The standard decoder -/

/-- The bits of a byte stream, least significant first (spec/30_encoding.md R87). -/
def streamBits (bytes : List Byte) : List Bool := bytes.flatMap (fun b => (List.range 8).map (fun j => b.getLsbD j))

/-- The bits an LZW run has produced so far: those in CSB, then those still in ACC (spec/10_state.md R50 (a)). -/
def State.bitString (s : State) : List Bool :=
  streamBits ((List.range s.optr.toNat).map s.csbAt) ++ (List.range s.nbits.toNat).map (fun j => s.acc.getLsbD j)

/-- The decoder's table: entries (code, byte sequence), newest first. -/
abbrev DecTable := List (Nat × List Nat)

/-- The byte sequence of a code: `str` of spec/93 G3; empty for a code that stands for none. -/
def decStr (clear : Nat) : DecTable → Nat → List Nat
  | [], c => if c < clear then [c] else []
  | (d, bs) :: rest, c => if c = d then bs else decStr clear rest c

/-- The loop of the standard decoder (spec/93_implementation_defined.md G3), at most `fuel` codes: the bits left, the table, its
next code, the width, the previous code. It stops at End-of-Information, when the stream is short, or at a code that is
not defined yet. -/
def decLoop (mcs : Nat) : (fuel : Nat) → List Bool → DecTable → (next cw : Nat) → Option Nat → List Nat
  | 0, _, _, _, _, _ => []
  | fuel + 1, B, T, next, cw, prev =>
    if B.length < cw then []
    else
      let c := bitsValue (B.take cw)
      let rest := B.drop cw
      if c = 2 ^ mcs then decLoop mcs fuel rest [] (2 ^ mcs + 2) (mcs + 1) none
      else if c = 2 ^ mcs + 1 then []
      else
        match prev with
        | none => decStr (2 ^ mcs) T c ++ decLoop mcs fuel rest T next cw (some c)
        | some p =>
          if next < c then []
          else
            let e := if c < next then decStr (2 ^ mcs) T c
              else decStr (2 ^ mcs) T p ++ (decStr (2 ^ mcs) T p).take 1
            let entry := decStr (2 ^ mcs) T p ++ e.take 1
            if next < 4096 then
              e ++ decLoop mcs fuel rest ((next, entry) :: T) (next + 1)
                (if next + 1 = 2 ^ cw ∧ cw < 12 then cw + 1 else cw) (some c)
            else e ++ decLoop mcs fuel rest T next cw (some c)

/-- The standard decoder applied to a byte stream (spec/93_implementation_defined.md G3). -/
def gifDecode (mcs : Nat) (bytes : List Byte) : List Nat :=
  decLoop mcs (8 * bytes.length) (streamBits bytes) [] (2 ^ mcs + 2) (mcs + 1) none

end Sys2Proof.Machine
end

