-- ==== Sys2Proof/Safety.lean ====
section
/-! DEFINITION. What holds of every state a run reaches: the invariants the spec states of the flags, the sequencer, the memories
and the units' registers, gathered in `Inv`. Claims use these names. -/

namespace Sys2Proof.Machine

/-- The values PHASE holds (spec/10_state.md R34). -/
def listedPhases : List (BitVec 5) := [0, 1, 2, 3, 4, 5, 8, 9, 10, 11, 12, 13, 14, 16, 17, 18, 19, 20]

/-- PHASE is a phase of QNT. -/
abbrev State.inQnt (s : State) : Prop := 1 ≤ s.phase.toNat ∧ s.phase.toNat ≤ 5
/-- PHASE is a phase of FRM. -/
abbrev State.inFrm (s : State) : Prop := 8 ≤ s.phase.toNat ∧ s.phase.toNat ≤ 14
/-- PHASE is a phase of LZW. -/
abbrev State.inLzw (s : State) : Prop := 16 ≤ s.phase.toNat ∧ s.phase.toNat ≤ 20

/-- STATUS, PHASE and CHAIN agree (spec/10_state.md R23, R34, R35). -/
structure State.FlagsOk (s : State) : Prop where
  phase_listed : s.phase ∈ listedPhases
  busy_iff : s.status.busy = true ↔ s.phase ≠ phIdle
  not_both : ¬(s.status.done = true ∧ s.status.err = true)
  quiet : s.status.busy = true → s.status.done = false ∧ s.status.err = false
  no_code : s.status.err = false → s.status.errCode = 0
  some_code : s.status.err = true → 1 ≤ s.status.errCode.toNat ∧ s.status.errCode.toNat ≤ 6
  chain_busy : s.chain = true → s.status.busy = true
  unit_qnt : s.inQnt → s.status.unit = UnitName.qnt.number
  unit_frm : s.inFrm → s.status.unit = UnitName.frm.number
  unit_lzw : s.inLzw → s.status.unit = UnitName.lzw.number

/-- Every memory is in its canonical form and lists no cell it does not have (spec/10_state.md R41). -/
structure State.MemoriesOk (s : State) : Prop where
  pix_wf : s.pix.wf
  smp_wf : s.smp.wf
  pal_wf : s.pal.wf
  idx_wf : s.idx.wf
  pfx_wf : s.pfx.wf
  sfx_wf : s.sfx.wf
  csb_wf : s.csb.wf
  gif_wf : s.gif.wf
  pix_within : s.pix.within (cellCount s.params .pix)
  smp_within : s.smp.within (cellCount s.params .smp)
  pal_within : s.pal.within (cellCount s.params .pal)
  idx_within : s.idx.within (cellCount s.params .idx)
  pfx_within : s.pfx.within (cellCount s.params .pfx)
  sfx_within : s.sfx.within (cellCount s.params .sfx)
  csb_within : s.csb.within (cellCount s.params .csb)
  gif_within : s.gif.within (cellCount s.params .gif)

/-- The length registers: bounded by the memories; 0 while their unit runs or is still to run under BUILD, and 0 after its
failure (spec/10_state.md R29 to R31, spec/70_reset_and_hazards.md R255). -/
structure State.LengthsOk (s : State) : Prop where
  csblen_le : s.csblen.toNat ≤ s.params.csbCap
  giflen_le : s.giflen.toNat ≤ s.params.gifCap
  ncol_le : s.ncol.toNat ≤ palSize
  ncol_run : s.inQnt → s.ncol = 0
  csblen_run : s.inLzw → s.csblen = 0
  giflen_run : s.inFrm → s.giflen = 0
  csblen_chain : s.chain = true → s.inQnt → s.csblen = 0
  giflen_chain : s.chain = true → s.giflen = 0
  ncol_failed : s.status.err = true → s.status.unit = UnitName.qnt.number → s.ncol = 0
  csblen_failed : s.status.err = true → s.status.unit = UnitName.lzw.number → s.csblen = 0
  giflen_failed : s.status.err = true → s.status.unit = UnitName.frm.number → s.giflen = 0

/-- QNT between its steps (spec/41_quantizer.md R131 to R144). -/
structure State.QntOk (s : State) : Prop where
  counted : 2 ≤ s.phase.toNat → s.phase.toNat ≤ 5 →
    s.count.toNat = s.pixelCount ∧ 1 ≤ s.count.toNat ∧ s.count.toNat ≤ s.params.maxPix ∧
      s.pixlen.toNat = 4 * s.count.toNat
  sampled : s.phase = phQCut → s.nsmp.toNat = sampleCount s.count.toNat ∧ s.stride.toNat = sampleStride s.count.toNat
  coloured : s.phase = phQPad ∨ s.phase = phQMap → 1 ≤ s.ncolw.toNat ∧ s.ncolw.toNat ≤ palSize
  position : s.phase = phQMap → s.pos.toNat < s.count.toNat

/-- FRM between its steps (spec/42_gif_framer.md R161 to R167): the checks of F_CHECK hold on, and GPTR stands where the
layout of spec/30_encoding.md R89 puts it. -/
structure State.FrmOk (s : State) : Prop where
  checked : 9 ≤ s.phase.toNat → s.phase.toNat ≤ 14 →
    s.mincs = gifMincs ∧ s.width ≠ 0 ∧ s.height ≠ 0 ∧ 1 ≤ s.csblen.toNat ∧
      gifLength s.csblen.toNat ≤ s.params.gifCap
  at_head : s.phase = phFHead → s.gptr = 0
  at_gct : s.phase = phFGct → s.gptr = 13
  at_gce : s.phase = phFGce → s.gptr = 781
  at_img : s.phase = phFImg → s.gptr = 789
  at_data : s.phase = phFData →
    s.pos.toNat < s.csblen.toNat ∧ s.pos.toNat % subBlkMax = 0 ∧
      s.gptr.toNat = 800 + s.pos.toNat + s.pos.toNat / subBlkMax
  at_trail : s.phase = phFTrail → s.gptr.toNat = 800 + s.csblen.toNat + ceilDiv s.csblen.toNat subBlkMax

/-- The dictionary (spec/10_state.md R51 (5)): an entry's prefix is an earlier code and no control code, its byte is a literal,
and no two entries are the same pair. -/
structure State.DictOk (s : State) : Prop where
  prefix_lt : ∀ c, s.first ≤ c → c < s.next.toNat → (s.pfxAt c).toNat < c
  prefix_not_control : ∀ c, s.first ≤ c → c < s.next.toNat → (s.pfxAt c).toNat ≠ s.clr ∧ (s.pfxAt c).toNat ≠ s.eoi
  byte_lt : ∀ c, s.first ≤ c → c < s.next.toNat → (s.sfxAt c).toNat < s.clr
  distinct : ∀ c d, s.first ≤ c → c < s.next.toNat → s.first ≤ d → d < s.next.toNat →
    s.pfxAt c = s.pfxAt d → s.sfxAt c = s.sfxAt d → c = d

/-- The code width is the width of the largest code the table holds: CW = bitlen(NEXT - 1) (spec/10_state.md R51 (3)). -/
abbrev State.WidthOk (s : State) : Prop :=
  1 ≤ s.cw.toNat ∧ 2 ^ (s.cw.toNat - 1) ≤ s.next.toNat - 1 ∧ s.next.toNat - 1 < 2 ^ s.cw.toNat

/-- LZW between its steps (spec/10_state.md R51 (1) to (6), spec/43_lzw.md R186 to R194). -/
structure State.LzwOk (s : State) : Prop where
  checked : 17 ≤ s.phase.toNat → s.phase.toNat ≤ 20 →
    2 ≤ s.mincs.toNat ∧ s.mincs.toNat ≤ 8 ∧ 1 ≤ s.len.toNat ∧ s.len.toNat ≤ s.params.maxPix
  at_init : s.phase = phLInit → s.pos = 0 ∧ s.optr = 0 ∧ s.acc = 0 ∧ s.nbits = 0
  buffered : 18 ≤ s.phase.toNat → s.phase.toNat ≤ 20 →
    s.nbits.toNat ≤ 7 ∧ s.acc.toNat < 2 ^ s.nbits.toNat ∧ s.optr.toNat ≤ s.params.csbCap
  tabled : 18 ≤ s.phase.toNat → s.phase.toNat ≤ 20 →
    s.first ≤ s.next.toNat ∧ s.next.toNat ≤ maxEnt ∧ s.WidthOk ∧ s.DictOk
  at_first : s.phase = phLFirst → s.pos = 0 ∧ s.next.toNat = s.first
  pending : 19 ≤ s.phase.toNat → s.phase.toNat ≤ 20 →
    s.w.toNat < s.next.toNat ∧ s.w.toNat ≠ s.clr ∧ s.w.toNat ≠ s.eoi
  position : s.phase = phLLoop → 1 ≤ s.pos.toNat ∧ s.pos.toNat ≤ s.len.toNat
  at_finish : s.phase = phLFinish → s.pos = s.len

/-- Under BUILD MINCS is 8 and what a unit hands to the next passes the next one's checks, but for capacities
(spec/40_commands.md R116). -/
structure State.ChainOk (s : State) : Prop where
  mincs : s.chain = true → s.mincs = gifMincs
  image : s.chain = true → s.phase ≠ phQCheck → s.width ≠ 0 ∧ s.height ≠ 0
  indices : s.chain = true → s.inLzw → 1 ≤ s.len.toNat ∧ s.len.toNat ≤ s.params.maxPix
  emitted : s.chain = true → 18 ≤ s.phase.toNat → s.phase.toNat ≤ 20 → 1 ≤ s.optr.toNat
  stream : s.chain = true → s.inFrm → 1 ≤ s.csblen.toNat

/-- The invariant of the machine. It says nothing of the host's moves, the replies or the draws. -/
structure State.Inv (s : State) : Prop where
  params : s.params.Ok
  flags : s.FlagsOk
  memories : s.MemoriesOk
  lengths : s.LengthsOk
  qnt : s.QntOk
  frm : s.FrmOk
  lzw : s.LzwOk
  chained : s.ChainOk

/-! ## Terms the claims use -/

/-- The bytes a framer step appends to GIF at GPTR, every other cell staying (spec/42_gif_framer.md R168). -/
structure State.Appends (s t : State) (bytes : List Byte) : Prop where
  gptr : t.gptr.toNat = s.gptr.toNat + bytes.length
  stored : ∀ i, i < bytes.length → t.gifAt (s.gptr.toNat + i) = bytes.getD i 0
  others : ∀ a, a < s.gptr.toNat ∨ s.gptr.toNat + bytes.length ≤ a → t.gifAt a = s.gifAt a

/-- The bit buffer of the LZW unit is in order: at most 7 bits, and 0 above them (spec/10_state.md R51 (1)). -/
abbrev State.BufferOk (s : State) : Prop := s.nbits.toNat ≤ 7 ∧ s.acc.toNat < 2 ^ s.nbits.toNat

/-- What `EmitCode(c, n)` does to ACC, NBITS, OPTR and CSB (spec/43_lzw.md R183): the code is put on top of the buffered
bits, V = ACC + c × 2^NBITS; the whole bytes of V go to CSB from OPTR on, low one first, and the rest stays buffered. -/
structure State.Emits (s t : State) (c n : Nat) : Prop where
  nbits : t.nbits.toNat = (s.nbits.toNat + n) % 8
  acc : t.acc.toNat = (s.acc.toNat + c * 2 ^ s.nbits.toNat) / 2 ^ (8 * ((s.nbits.toNat + n) / 8))
  optr : t.optr.toNat = s.optr.toNat + (s.nbits.toNat + n) / 8
  stored : ∀ i, i < (s.nbits.toNat + n) / 8 →
    t.csbAt (s.optr.toNat + i) = BitVec.ofNat 8 ((s.acc.toNat + c * 2 ^ s.nbits.toNat) / 2 ^ (8 * i))
  others : ∀ a, a < s.optr.toNat ∨ s.optr.toNat + (s.nbits.toNat + n) / 8 ≤ a → t.csbAt a = s.csbAt a

/-- The end of an LZW run that raised after L_CHECK: the error is recorded, CSB and the LZW registers are whatever they are
(spec/60_exceptions.md R228, R229). -/
abbrev State.LzwFails (s t : State) (code : BitVec 4) : Prop :=
  t =
    { s with
      status := ⟨false, false, true, code, s.status.unit⟩
      chain := false
      phase := 0
      pos := t.pos
      w := t.w
      k := t.k
      next := t.next
      cw := t.cw
      acc := t.acc
      nbits := t.nbits
      optr := t.optr
      pfx := t.pfx
      sfx := t.sfx
      csb := t.csb
      draws := t.draws }

/-- Entry c of the table is the pair (w, k) (spec/43_lzw.md R182). -/
abbrev State.IsEntry (s : State) (w : BitVec 12) (k : Byte) (c : Nat) : Prop :=
  2 ^ s.mincs.toNat + 2 ≤ c ∧ c < s.next.toNat ∧ s.pfxAt c = w ∧ s.sfxAt c = k

/-- Index i of a palette of 256 is the lowest of those nearest to a colour (spec/41_quantizer.md R145). -/
abbrev IsNearest (palette : Nat → Colour) (c : Colour) (i : Nat) : Prop :=
  i < 256 ∧ ∀ j, j < 256 →
    dist2 c (palette i) ≤ dist2 c (palette j) ∧ (j < i → dist2 c (palette i) < dist2 c (palette j))

/-- The sampled colours of an image of `count` pixels (spec/41_quantizer.md R133). -/
def State.sampledColours (s : State) (count : Nat) : List Colour :=
  (List.range (sampleCount count)).map (fun j => s.col (j * sampleStride count))

/-- The first n bytes of IDX, as the compressor's input. -/
def State.indexList (s : State) (n : Nat) : List Nat := (List.range n).map (fun i => (s.idxAt i).toNat)

/-- The first n bytes of CSB. -/
def State.csbList (s : State) (n : Nat) : List Byte := (List.range n).map s.csbAt

/-- The 768 bytes of PAL. -/
def State.palList (s : State) : List Byte := (List.range 768).map s.palAt

/-- k steps of the machine, stopping at the first fault or refusal. -/
def run : Nat → State → Out
  | 0, s => .next s
  | k + 1, s =>
    match step s with
    | .next t => run k t
    | .fault f => .fault f
    | .refused r => .refused r

end Sys2Proof.Machine
end

