-- ==== Sys2Proof/Certificates/Slice0/Obligations.lean ====
section
/-! DEFINITION. The statements for the provers. Each docstring names the rule of spec/ it formalises; clauses that rest on a
choice of the model name its log entry. -/

open Sys2Proof Sys2Proof.Machine

/-! ## Encodings -/

/-- spec/30_encoding.md R80 to R83: decoding the encoding of a well-formed instruction gives it back. -/
def Obligations.DecodeEncodedInstruction : Prop :=
  ∀ i : Instr, i.wellFormed = true → decode (encode i) = .ok i

/-- spec/30_encoding.md R80 to R83: a code the decoder accepts is the encoding of what it decodes to, so no two codes mean
the same; the case is read at PHASE 19 only (log 16). -/
def Obligations.EncodeDecodedCode : Prop :=
  (∀ w : Word, (decodeCommand w).wellFormed = true ∧ encode (decodeCommand w) = .cmd w) ∧
  ∀ (p : BitVec 5) (c : LoopCase) (i : Instr), decodeStep p c = .ok i →
    i.wellFormed = true ∧ encode i = .step p (if p = 19 then c else .fin)

/-- spec/30_encoding.md R81: the opcode map; each row matches one word, over all 32 bits. -/
def Obligations.OpcodeMap : Prop :=
  ∀ w : Word,
    (decodeCommand w = .nop ↔ w = 0x00000000) ∧
    (decodeCommand w = .quant ↔ w = 0x00000001) ∧
    (decodeCommand w = .frame ↔ w = 0x00000002) ∧
    (decodeCommand w = .lzw ↔ w = 0x00000003) ∧
    (decodeCommand w = .build ↔ w = 0x00000004) ∧
    (decodeCommand w = .clr ↔ w = 0x0000000E) ∧
    (decodeCommand w = .srst ↔ w = 0x0000000F)

/-- spec/30_encoding.md R82 and spec/40_commands.md R117: which words are reserved, what an accepted one records, and that
NOP is the only word that changes no idle state. -/
def Obligations.ReservedWords : Prop :=
  (∀ w : Word,
    ((∃ z o, decodeCommand w = .reserved z o) ↔
      ((5 ≤ w.toNat % 256 ∧ w.toNat % 256 ≤ 13) ∨ 16 ≤ w.toNat % 256 ∨ w.toNat / 256 ≠ 0)) ∧
    (∀ z o, decodeCommand w = .reserved z o → z.toNat = w.toNat / 256 ∧ o.toNat = w.toNat % 256) ∧
    (∀ s : State, s.status.busy = true → exec (decodeCommand w) s = .next s) ∧
    ((∀ s : State, s.status.busy = false → exec (decodeCommand w) s = .next s) → w = 0)) ∧
  ∀ (z : BitVec 24) (o : BitVec 8) (s : State), s.status.busy = false →
    ∃ t, exec (.reserved z o) s = .next t ∧ t = { s with status := ⟨false, false, true, 1, 0⟩ } ∧
      t.irq = s.ie.errIe ∧ t.readOffset 0x04 = 0x00000014

/-! ## One step of the machine -/

/-- spec/30_encoding.md R83, spec/10_state.md R34, spec/40_commands.md R120: which instruction a PHASE value selects, and that a
step runs it, when the host has no move (log 1), lets the sequencer take the step, or waits. With PHASE IDLE there is no
step (log 20); a value outside the table is stuck (log 14). -/
def Obligations.StepRunsSelectedPhase : Prop :=
  (∀ (p : BitVec 5) (c : LoopCase),
    decodeStep p c =
      match p.toNat with
      | 0 => .error .idle
      | 1 => .ok .qCheck
      | 2 => .ok .qSample
      | 3 => .ok .qCut
      | 4 => .ok .qPad
      | 5 => .ok .qMap
      | 8 => .ok .fCheck
      | 9 => .ok .fHead
      | 10 => .ok .fGct
      | 11 => .ok .fGce
      | 12 => .ok .fImg
      | 13 => .ok .fData
      | 14 => .ok .fTrail
      | 16 => .ok .lCheck
      | 17 => .ok .lInit
      | 18 => .ok .lFirst
      | 19 =>
        match c with
        | .extend => .ok .lLoopExtend
        | .insert => .ok .lLoopInsert
        | .reset => .ok .lLoopReset
        | .fin => .ok .lLoopEnd
      | 20 => .ok .lFinish
      | _ => .error (.noSuchPhase p)) ∧
  (∀ (s : State) (i : Instr) (rest : List HostMove), decodeStep s.phase s.loopCase = .ok i →
    (s.host = [] → step s = exec i s) ∧
    (s.host = .pass :: rest → step s = exec i { s with host := rest }) ∧
    (s.host = .wait :: rest → s.status.busy = true → step s = exec i s)) ∧
  (∀ s : State, s.phase = 0 → s.host = [] → step s = .next s) ∧
  (∀ (s : State) (rest : List HostMove), s.host = .wait :: rest → s.status.busy = false →
    step s = .next { s with host := rest }) ∧
  ∀ (s : State) (p : BitVec 5), decodeStep s.phase s.loopCase = .error (.noSuchPhase p) → s.host = [] →
    step s = .fault (.noStep s.phase)

/-- spec/10_state.md R22: a host write to CMD is the command its word decodes to; a read of CMD returns 0. -/
def Obligations.StepRunsCommand : Prop :=
  ∀ (s : State) (rest : List HostMove) (v : Word),
    step { s with host := .access (.memWrite .reg 0x00 4 v) :: rest } = exec (decodeCommand v) { s with host := rest } ∧
    step { s with host := .access (.memRead .reg 0x00 4) :: rest } =
      .next { s with host := rest, replies := 0 :: s.replies }

/-! ## The host port -/

/-- spec/10_state.md R21, R32: the register bank: what a read of an offset returns, field by field, what a write to one stores,
and what it reads after reset. Offsets above 0x28 and unaligned ones name no register. -/
def Obligations.RegisterBank : Prop :=
  (∀ s : State,
    s.readOffset 0x00 = 0 ∧
    (s.readOffset 0x04).toNat =
      s.status.busy.toNat + 2 * s.status.done.toNat + 4 * s.status.err.toNat + 16 * s.status.errCode.toNat +
        256 * s.status.unit.toNat ∧
    (s.readOffset 0x08).toNat = s.ie.doneIe.toNat + 2 * s.ie.errIe.toNat ∧
    (s.readOffset 0x0C).toNat = s.width.toNat ∧
    (s.readOffset 0x10).toNat = s.height.toNat ∧
    s.readOffset 0x14 = s.pixlen ∧
    s.readOffset 0x18 = s.len ∧
    (s.readOffset 0x1C).toNat = s.mincs.toNat ∧
    s.readOffset 0x20 = s.csblen ∧
    s.readOffset 0x24 = s.giflen ∧
    (s.readOffset 0x28).toNat = s.ncol.toNat) ∧
  (∀ (s : State) (v : Word),
    s.writeOffset 0x04 v = s ∧
    s.writeOffset 0x08 v = { s with ie := ⟨v.getLsbD 0, v.getLsbD 1⟩ } ∧
    s.writeOffset 0x0C v = { s with width := v.setWidth 16 } ∧
    s.writeOffset 0x10 v = { s with height := v.setWidth 16 } ∧
    s.writeOffset 0x14 v = { s with pixlen := v } ∧
    s.writeOffset 0x18 v = { s with len := v } ∧
    s.writeOffset 0x1C v = { s with mincs := v.setWidth 4 } ∧
    s.writeOffset 0x20 v = s ∧
    s.writeOffset 0x24 v = s ∧
    s.writeOffset 0x28 v = s) ∧
  (∀ (s : State) (a : Nat) (v : Word), 0x28 < a ∨ a % 4 ≠ 0 → s.readOffset a = 0 ∧ s.writeOffset a v = s) ∧
  ∀ a : Nat, State.reset.readOffset a = if a = 0x1C then 8 else 0

/-- spec/20_memory.md R62: which accesses the interface has; every other is refused (spec/93 U2, log 13). -/
def Obligations.OnlyInterfaceAccesses : Prop :=
  ∀ (s : State) (rest : List HostMove) (sp : Space) (a n : Nat) (v : Word),
    (step { s with host := .access (.memRead sp a n) :: rest } = .refused .hostAccess ↔
      ¬((sp = .reg ∧ n = 4 ∧ a % 4 = 0) ∨ (sp = .pix ∧ n = 1 ∧ a < 4 * s.params.maxPix) ∨
        (sp = .pal ∧ n = 1 ∧ a < 768) ∨ (sp = .idx ∧ n = 1 ∧ a < s.params.maxPix) ∨
        (sp = .csb ∧ n = 1 ∧ a < s.params.csbCap) ∨ (sp = .gif ∧ n = 1 ∧ a < s.params.gifCap))) ∧
    (step { s with host := .access (.memWrite sp a n v) :: rest } = .refused .hostAccess ↔
      ¬((sp = .reg ∧ n = 4 ∧ a % 4 = 0) ∨ (sp = .pix ∧ n = 1 ∧ a < 4 * s.params.maxPix) ∨
        (sp = .pal ∧ n = 1 ∧ a < 768) ∨ (sp = .idx ∧ n = 1 ∧ a < s.params.maxPix) ∨
        (sp = .csb ∧ n = 1 ∧ a < s.params.csbCap)))

/-- spec/20_memory.md R63: the host while BUSY = 0. A read returns the register or the cell and changes nothing else; a write to
a register or to a cell takes effect at once and changes nothing else, and nothing at all where it writes the value already
held; a write to CMD is a command. -/
def Obligations.HostWhileIdle : Prop :=
  ∀ (s : State) (rest : List HostMove), s.status.busy = false →
    (∀ a, a % 4 = 0 →
      step { s with host := .access (.memRead .reg a 4) :: rest } =
        .next { s with host := rest, replies := s.readOffset a :: s.replies }) ∧
    (∀ a v, a % 4 = 0 → a ≠ 0 →
      step { s with host := .access (.memWrite .reg a 4 v) :: rest } = .next ({ s with host := rest }.writeOffset a v)) ∧
    (∀ a, s.writeOffset a (s.readOffset a) = s) ∧
    (∀ v, step { s with host := .access (.memWrite .reg 0 4 v) :: rest } =
      exec (decodeCommand v) { s with host := rest }) ∧
    (∀ sp a, sp ∈ [Space.pix, .pal, .idx, .csb, .gif] → a < cellCount s.params sp →
      step { s with host := .access (.memRead sp a 1) :: rest } =
        .next { s with host := rest, replies := (s.readData sp a).setWidth 32 :: s.replies }) ∧
    ∀ sp a v, sp ∈ [Space.pix, .pal, .idx, .csb] → a < cellCount s.params sp →
      ∃ t, step { s with host := .access (.memWrite sp a 1 v) :: rest } = .next t ∧
        t = { s with host := rest, pix := t.pix, pal := t.pal, idx := t.idx, csb := t.csb } ∧
        t.readData sp a = v.setWidth 8 ∧
        ∀ sp' a', sp' ≠ sp ∨ a' ≠ a → t.readData sp' a' = s.readData sp' a'

/-- spec/20_memory.md R64, spec/70_reset_and_hazards.md R254: the host while BUSY = 1. Every write, a command among them, is
ignored; a register read returns the current value; a data read returns some byte (log 12) and changes nothing; of two commands
back to back the second is lost. -/
def Obligations.HostWhileBusy : Prop :=
  (∀ (s : State) (rest : List HostMove), s.FlagsOk → s.status.busy = true →
    (∀ sp a n v, (HostAccess.memWrite sp a n v).legal s.params = true →
      step { s with host := .access (.memWrite sp a n v) :: rest } = .next { s with host := rest }) ∧
    (∀ a, a % 4 = 0 →
      step { s with host := .access (.memRead .reg a 4) :: rest } =
        .next { s with host := rest, replies := s.readOffset a :: s.replies }) ∧
    (s.readOffset 0x04).toNat = 1 + 256 * s.status.unit.toNat ∧
    (s.inQnt → s.status.unit = 1) ∧ (s.inFrm → s.status.unit = 2) ∧ (s.inLzw → s.status.unit = 3) ∧
    ∀ sp a, sp ≠ .reg → (HostAccess.memRead sp a 1).legal s.params = true →
      ∃ (b : Byte) (d : Nat), step { s with host := .access (.memRead sp a 1) :: rest } =
        .next { s with host := rest, replies := b.setWidth 32 :: s.replies, draws := d }) ∧
  ∀ (s : State) (rest : List HostMove) (v w : Word), s.status.busy = false → v ∈ [(1 : Word), 2, 3, 4] →
    ∃ t, step { s with host := moveWr .cmd v :: moveWr .cmd w :: rest } = .next t ∧
      t.host = moveWr .cmd w :: rest ∧ t.status.busy = true ∧ step t = .next { t with host := rest }

/-- spec/10_state.md R49: the IRQ line, in terms of what STATUS and IE read as. -/
def Obligations.IrqLine : Prop :=
  ∀ s : State,
    s.irq = (((s.readOffset 0x04).getLsbD 1 && (s.readOffset 0x08).getLsbD 0) ||
      ((s.readOffset 0x04).getLsbD 2 && (s.readOffset 0x08).getLsbD 1))

/-! ## Reset and the commands -/

/-- spec/70_reset_and_hazards.md R250, spec/10_state.md R53: the RST move, at any time, and the state right after reset. Nothing
is said of the working registers; no memory cell is written. That the model's own fields stay is its choice (log 4). -/
def Obligations.ResetValues : Prop :=
  (∀ (s : State) (rest : List HostMove), ∃ t, step { s with host := .rst :: rest } = .next t ∧
    (∀ a, t.readOffset a = if a = 0x1C then 8 else 0) ∧ t.phase = 0 ∧ t.chain = false ∧ t.irq = false ∧
    t.pix.cells = [] ∧ t.smp.cells = [] ∧ t.pal.cells = [] ∧ t.idx.cells = [] ∧ t.pfx.cells = [] ∧ t.sfx.cells = [] ∧
    t.csb.cells = [] ∧ t.gif.cells = [] ∧ t.host = rest ∧ t.replies = s.replies ∧ t.params = s.params) ∧
  State.reset.phase = 0 ∧ State.reset.chain = false ∧ State.reset.irq = false ∧
  (∀ a, State.reset.readOffset a = if a = 0x1C then 8 else 0) ∧
  State.reset.pix.cells = [] ∧ State.reset.smp.cells = [] ∧ State.reset.pal.cells = [] ∧ State.reset.idx.cells = [] ∧
  State.reset.pfx.cells = [] ∧ State.reset.sfx.cells = [] ∧ State.reset.csb.cells = [] ∧ State.reset.gif.cells = []

/-- spec/40_commands.md R111, R118, R119: NOP, CLR and SRST: their words, what each changes when it is accepted, and that
each is ignored while BUSY = 1. -/
def Obligations.HousekeepingCommands : Prop :=
  decodeCommand 0x00000000 = .nop ∧ decodeCommand 0x0000000E = .clr ∧ decodeCommand 0x0000000F = .srst ∧
  ∀ s : State,
    (s.status.busy = true → exec .nop s = .next s ∧ exec .clr s = .next s ∧ exec .srst s = .next s) ∧
    (s.status.busy = false →
      exec .nop s = .next s ∧
      (∃ t, exec .clr s = .next t ∧ t = { s with status := ⟨false, false, false, 0, 0⟩ } ∧ t.irq = false) ∧
      ∃ t, exec .srst s = .next t ∧ t.irq = false ∧
        t =
          { s with
            status := ⟨false, false, false, 0, 0⟩
            ie := ⟨false, false⟩
            width := 0
            height := 0
            pixlen := 0
            len := 0
            mincs := 8
            csblen := 0
            giflen := 0
            ncol := 0
            phase := 0
            chain := false })

/-- spec/40_commands.md R112: launch. Each run command, accepted, starts its first unit, clears the flags and zeroes the length
registers of the units it will run; BUILD also writes 8 to MINCS (R116). -/
def Obligations.RunCommandsLaunch : Prop :=
  ∀ s : State, s.status.busy = false →
    exec .quant s = .next { s with status := ⟨true, false, false, 0, 1⟩, chain := false, ncol := 0, phase := 1 } ∧
    exec .frame s = .next { s with status := ⟨true, false, false, 0, 2⟩, chain := false, giflen := 0, phase := 8 } ∧
    exec .lzw s = .next { s with status := ⟨true, false, false, 0, 3⟩, chain := false, csblen := 0, phase := 16 } ∧
    exec .build s =
      .next
        { s with
          status := ⟨true, false, false, 0, 1⟩
          chain := true
          ncol := 0
          csblen := 0
          giflen := 0
          mincs := 8
          phase := 1 } ∧
    ∀ i t, i ∈ [Instr.quant, .frame, .lzw, .build] → exec i s = .next t → t.irq = false

/-! ## QNT -/

/-- spec/41_quantizer.md R131: Q_CHECK in every state: COUNT, its three tests in order, and what it leaves. -/
def Obligations.QCheckTests : Prop :=
  ∀ s : State,
    (s.width.toNat * s.height.toNat = 0 →
      ∃ t, exec .qCheck s = .next t ∧
        t = { s with count := t.count, status := ⟨false, false, true, 3, s.status.unit⟩, chain := false, phase := 0 } ∧
        t.count.toNat = s.width.toNat * s.height.toNat) ∧
    (s.width.toNat * s.height.toNat ≠ 0 → s.params.maxPix < s.width.toNat * s.height.toNat →
      ∃ t, exec .qCheck s = .next t ∧
        t = { s with count := t.count, status := ⟨false, false, true, 4, s.status.unit⟩, chain := false, phase := 0 } ∧
        t.count.toNat = s.width.toNat * s.height.toNat) ∧
    (s.width.toNat * s.height.toNat ≠ 0 → s.width.toNat * s.height.toNat ≤ s.params.maxPix →
      s.pixlen.toNat ≠ 4 * (s.width.toNat * s.height.toNat) →
      ∃ t, exec .qCheck s = .next t ∧
        t = { s with count := t.count, status := ⟨false, false, true, 2, s.status.unit⟩, chain := false, phase := 0 } ∧
        t.count.toNat = s.width.toNat * s.height.toNat) ∧
    (s.width.toNat * s.height.toNat ≠ 0 → s.width.toNat * s.height.toNat ≤ s.params.maxPix →
      s.pixlen.toNat = 4 * (s.width.toNat * s.height.toNat) →
      ∃ t, exec .qCheck s = .next t ∧ t = { s with count := t.count, phase := 2 } ∧
        t.count.toNat = s.width.toNat * s.height.toNat)

/-- spec/41_quantizer.md R133: Q_SAMPLE. -/
def Obligations.QSampleFillsSmp : Prop :=
  ∀ s : State, s.count.toNat ≤ s.params.maxPix →
    ∃ t, exec .qSample s = .next t ∧
      t = { s with stride := t.stride, nsmp := t.nsmp, smp := t.smp, phase := 3 } ∧
      t.stride.toNat = (if 100000 < s.count.toNat then s.count.toNat / 50000 else 1) ∧
      t.nsmp.toNat = (s.count.toNat + t.stride.toNat - 1) / t.stride.toNat ∧
      (∀ j, j < t.nsmp.toNat →
        t.smpAt j =
          ⟨s.pixAt (4 * (j * t.stride.toNat)), s.pixAt (4 * (j * t.stride.toNat) + 1),
            s.pixAt (4 * (j * t.stride.toNat) + 2)⟩) ∧
      ∀ j, t.nsmp.toNat ≤ j → t.smpAt j = s.smpAt j

/-- spec/41_quantizer.md R134 (the spec's own inference): the bounds on the sample, for the COUNT of any image. -/
def Obligations.SampleBounds : Prop :=
  ∀ s : State, 1 ≤ s.count.toNat → s.count.toNat ≤ s.params.maxPix →
    ∃ t, exec .qSample s = .next t ∧ 1 ≤ t.nsmp.toNat ∧ t.nsmp.toNat ≤ 100000 ∧
      (s.count.toNat ≤ 100000 → t.nsmp = s.count.setWidth 17) ∧
      (100000 < s.count.toNat → t.nsmp.toNat ≤ 75000) ∧
      ∀ j, j < t.nsmp.toNat → j * t.stride.toNat < s.count.toNat

/-- spec/41_quantizer.md R135: Q_CUT. SMP is left with unspecified contents (log 10). -/
def Obligations.QCutWritesPalette : Prop :=
  ∀ s : State, s.nsmp.toNat ≤ 100000 →
    ∃ t, exec .qCut s = .next t ∧
      t = { s with ncolw := t.ncolw, pal := t.pal, smp := t.smp, draws := t.draws, phase := 4 } ∧
      1 ≤ t.ncolw.toNat ∧ t.ncolw.toNat ≤ 256 ∧
      (let cols := cut 8 ((List.range s.nsmp.toNat).map s.smpAt);
        t.ncolw.toNat = cols.length ∧ (∀ i, i < cols.length → t.palEntry i = cols.getD i black) ∧
        ∀ a, 3 * cols.length ≤ a → t.palAt a = s.palAt a)

/-- spec/41_quantizer.md R136, R139: the recursion of the median cut and its split at floor(n / 2). The size of an odd upper
half, and a bucket of one colour as an empty lower half at each depth and then the colour, are the spec's own inference in
R139, from R136. -/
def Obligations.MedianCutRecursion : Prop :=
  (∀ B : List Colour, cut 0 B = [mean B]) ∧
  (∀ d : Nat, cut d [] = [⟨0, 0, 0⟩]) ∧
  (∀ (d : Nat) (B : List Colour), B ≠ [] →
    ∃ lower upper, lower ++ upper = sortedBy B (widest B) ∧ lower.length = B.length / 2 ∧
      upper.length = (B.length + 1) / 2 ∧ cut (d + 1) B = cut d lower ++ cut d upper) ∧
  (∀ (d : Nat) (c : Colour), cut d [c] = List.replicate d ⟨0, 0, 0⟩ ++ [c]) ∧
  ∀ (d : Nat) (B : List Colour), cut d B ≠ []

/-- spec/41_quantizer.md R137: the widest channel, by maximum minus minimum, ties R > G > B. -/
def Obligations.WidestChannel : Prop :=
  ∀ (B : List Colour) (lo hi : Channel → Nat), B ≠ [] →
    (∀ ch, (∃ c ∈ B, (channel c ch).toNat = lo ch) ∧ (∃ c ∈ B, (channel c ch).toNat = hi ch) ∧
      ∀ c ∈ B, lo ch ≤ (channel c ch).toNat ∧ (channel c ch).toNat ≤ hi ch) →
    widest B =
      if hi .g - lo .g ≤ hi .r - lo .r ∧ hi .b - lo .b ≤ hi .r - lo .r then .r
      else if hi .b - lo .b ≤ hi .g - lo .g then .g
      else .b

/-- spec/41_quantizer.md R138: sorting by a channel: a rearrangement, ascending, and stable. -/
def Obligations.SortIsStableAscending : Prop :=
  ∀ (B : List Colour) (ch : Channel),
    (sortedBy B ch).Perm B ∧
    (sortedBy B ch).Pairwise (fun x y => (channel x ch).toNat ≤ (channel y ch).toNat) ∧
    ∀ v : Byte, (sortedBy B ch).filter (fun c => channel c ch == v) = B.filter (fun c => channel c ch == v)

/-- spec/41_quantizer.md R140: the mean of a bucket, each channel rounded to the nearest integer, an exact half up; black for
an empty bucket. -/
def Obligations.MeanRoundsHalfUp : Prop :=
  mean [] = ⟨0, 0, 0⟩ ∧
  ∀ (B : List Colour) (ch : Channel), B ≠ [] →
    (channel (mean B) ch).toNat = (2 * (B.map (fun c => (channel c ch).toNat)).sum + B.length) / (2 * B.length) ∧
    2 * B.length * (channel (mean B) ch).toNat ≤ 2 * (B.map (fun c => (channel c ch).toNat)).sum + B.length ∧
    2 * (B.map (fun c => (channel c ch).toNat)).sum + B.length <
      2 * B.length * ((channel (mean B) ch).toNat + 1)

/-- spec/41_quantizer.md R141 (the spec's own inference): how many colours the cut returns. -/
def Obligations.CutSize : Prop :=
  (∀ (B : List Colour), (cut 0 B).length = 1) ∧
  (∀ d : Nat, (cut d []).length = 1) ∧
  (∀ (d : Nat) (B C : List Colour), B.length = C.length → (cut d B).length = (cut d C).length) ∧
  (∀ (d : Nat) (B L U : List Colour), B ≠ [] → L.length = B.length / 2 → U.length = (B.length + 1) / 2 →
    (cut (d + 1) B).length = (cut d L).length + (cut d U).length) ∧
  (∀ (d : Nat) (c : Colour), (cut d [c]).length = d + 1) ∧
  ∀ (d : Nat) (B : List Colour), 1 ≤ (cut d B).length ∧ (cut d B).length ≤ 2 ^ d ∧
    (2 ^ d ≤ B.length → (cut d B).length = 2 ^ d)

/-- spec/41_quantizer.md R142: Q_PAD, in every state. -/
def Obligations.QPadBlackens : Prop :=
  ∀ s : State, ∃ t, exec .qPad s = .next t ∧ t = { s with pal := t.pal, pos := 0, phase := 5 } ∧
    ∀ a, t.palAt a = if 3 * s.ncolw.toNat ≤ a ∧ a < 768 then 0 else s.palAt a

/-- spec/41_quantizer.md R143, R145: the squared distance, and the lowest index of those nearest to a colour. -/
def Obligations.NearestColour : Prop :=
  (∀ c e : Colour,
    (dist2 c e : Int) =
      ((c.r.toNat : Int) - e.r.toNat) ^ 2 + ((c.g.toNat : Int) - e.g.toNat) ^ 2 + ((c.b.toNat : Int) - e.b.toNat) ^ 2 ∧
    dist2 c e ≤ 195075) ∧
  ∀ (s : State) (c : Colour), IsNearest s.palEntry c (s.nearest c)

/-- spec/41_quantizer.md R144, spec/40_commands.md R121: Q_MAP maps one pixel; at the last it hands over LEN and NCOL and
completes. Alone, that ends a successful run and IDX at and beyond LEN is unspecified then (log 9); under BUILD it goes on
into LZW and no other cell of IDX changes. -/
def Obligations.QMapMapsPixel : Prop :=
  ∀ s : State, s.params.Ok → s.pos.toNat < s.params.maxPix →
    ∃ t, exec .qMap s = .next t ∧
      IsNearest s.palEntry ⟨s.pixAt (4 * s.pos.toNat), s.pixAt (4 * s.pos.toNat + 1), s.pixAt (4 * s.pos.toNat + 2)⟩
        (t.idxAt s.pos.toNat).toNat ∧
      t.pos.toNat = s.pos.toNat + 1 ∧
      (s.count.toNat ≠ s.pos.toNat + 1 →
        t = { s with idx := t.idx, pos := t.pos } ∧ ∀ a, a ≠ s.pos.toNat → t.idxAt a = s.idxAt a) ∧
      (s.count.toNat = s.pos.toNat + 1 →
        (∀ a, a < s.pos.toNat → t.idxAt a = s.idxAt a) ∧
        (s.chain = true → ∀ a, a ≠ s.pos.toNat → t.idxAt a = s.idxAt a) ∧
        (s.chain = false →
          t =
            { s with
              idx := t.idx
              pos := t.pos
              draws := t.draws
              len := s.count
              ncol := s.ncolw
              status := ⟨false, true, s.status.err, s.status.errCode, s.status.unit⟩
              phase := 0 }) ∧
        (s.chain = true →
          t =
            { s with
              idx := t.idx
              pos := t.pos
              len := s.count
              ncol := s.ncolw
              status := ⟨s.status.busy, s.status.done, s.status.err, s.status.errCode, 3⟩
              phase := 16 }))

/-- spec/40_commands.md R113, spec/41_quantizer.md R130: a whole QUANT run. From any idle state with an image of matching
shape it ends after 4 + COUNT steps (the step count is the spec's own inference, spec/70_reset_and_hazards.md R262) with
DONE, the palette of the median cut padded with black, every pixel's nearest index, LEN and NCOL; nothing else but scratch
registers changes. -/
def Obligations.QuantRun : Prop :=
  ∀ s : State, s.params.Ok → s.status.busy = false → s.host = [] →
    1 ≤ s.pixelCount → s.pixelCount ≤ s.params.maxPix → s.pixlen.toNat = 4 * s.pixelCount →
    ∃ u t, exec .quant s = .next u ∧ run (4 + s.pixelCount) u = .next t ∧
      t =
        { s with
          status := ⟨false, true, false, 0, 1⟩
          chain := false
          phase := 0
          len := t.len
          ncol := t.ncol
          pos := t.pos
          count := t.count
          stride := t.stride
          nsmp := t.nsmp
          ncolw := t.ncolw
          smp := t.smp
          pal := t.pal
          idx := t.idx
          draws := t.draws } ∧
      t.len.toNat = s.pixelCount ∧
      (let cols := cut 8 (s.sampledColours s.pixelCount);
        t.ncol.toNat = cols.length ∧ ∀ i, i < 256 → t.palEntry i = cols.getD i black) ∧
      ∀ p, p < s.pixelCount → IsNearest t.palEntry (s.col p) (t.idxAt p).toNat

/-- spec/41_quantizer.md R132: the colour of a pixel, and that no step reads an alpha byte: two states that differ in alpha
bytes only take the same step and still differ in them only. -/
def Obligations.AlphaIsNotRead : Prop :=
  (∀ (s : State) (p : Nat), s.col p = ⟨s.pixAt (4 * p), s.pixAt (4 * p + 1), s.pixAt (4 * p + 2)⟩) ∧
  ∀ (s t : State) (p : Memory Byte), s.host = [] →
    (∀ a, a % 4 ≠ 3 → ({ s with pix := p } : State).pixAt a = s.pixAt a) →
    step s = .next t → step { s with pix := p } = .next { t with pix := p }

/-! ## FRM -/

/-- spec/42_gif_framer.md R161: F_CHECK in every state. -/
def Obligations.FCheckTests : Prop :=
  ∀ s : State,
    (s.mincs ≠ 8 →
      exec .fCheck s =
        .next { s with status := ⟨false, false, true, 5, s.status.unit⟩, chain := false, phase := 0 }) ∧
    (s.mincs = 8 → s.width = 0 ∨ s.height = 0 ∨ s.csblen = 0 →
      exec .fCheck s =
        .next { s with status := ⟨false, false, true, 3, s.status.unit⟩, chain := false, phase := 0 }) ∧
    (s.mincs = 8 → ¬(s.width = 0 ∨ s.height = 0 ∨ s.csblen = 0) →
      s.params.gifCap < 802 + s.csblen.toNat + (s.csblen.toNat + 254) / 255 →
      exec .fCheck s =
        .next { s with status := ⟨false, false, true, 4, s.status.unit⟩, chain := false, phase := 0 }) ∧
    (s.mincs = 8 → ¬(s.width = 0 ∨ s.height = 0 ∨ s.csblen = 0) →
      802 + s.csblen.toNat + (s.csblen.toNat + 254) / 255 ≤ s.params.gifCap →
      exec .fCheck s = .next { s with gptr := 0, phase := 9 })

/-- spec/42_gif_framer.md R162: F_HEAD. -/
def Obligations.FHeadWrites : Prop :=
  ∀ s : State, s.params.Ok → s.gptr.toNat + 13 ≤ s.params.gifCap →
    ∃ t, exec .fHead s = .next t ∧ t = { s with gif := t.gif, gptr := t.gptr, phase := 10 } ∧
      (s.gptr = 0 → t.gptr = 13) ∧
      s.Appends t
        [0x47, 0x49, 0x46, 0x38, 0x39, 0x61, s.width.extractLsb' 0 8, s.width.extractLsb' 8 8,
          s.height.extractLsb' 0 8, s.height.extractLsb' 8 8, 0xF7, 0x00, 0x00]

/-- spec/42_gif_framer.md R163: F_GCT. -/
def Obligations.FGctWrites : Prop :=
  ∀ s : State, s.params.Ok → s.gptr.toNat + 768 ≤ s.params.gifCap →
    ∃ t, exec .fGct s = .next t ∧ t = { s with gif := t.gif, gptr := t.gptr, phase := 11 } ∧
      (s.gptr = 13 → t.gptr = 781) ∧ s.Appends t s.palList

/-- spec/42_gif_framer.md R164: F_GCE. -/
def Obligations.FGceWrites : Prop :=
  ∀ s : State, s.params.Ok → s.gptr.toNat + 8 ≤ s.params.gifCap →
    ∃ t, exec .fGce s = .next t ∧ t = { s with gif := t.gif, gptr := t.gptr, phase := 12 } ∧
      (s.gptr = 781 → t.gptr = 789) ∧ s.Appends t [0x21, 0xF9, 0x04, 0x00, 0x00, 0x00, 0x00, 0x00]

/-- spec/42_gif_framer.md R165: F_IMG. -/
def Obligations.FImgWrites : Prop :=
  ∀ s : State, s.params.Ok → s.gptr.toNat + 11 ≤ s.params.gifCap →
    ∃ t, exec .fImg s = .next t ∧ t = { s with gif := t.gif, gptr := t.gptr, pos := 0, phase := 13 } ∧
      (s.gptr = 789 → t.gptr = 800) ∧
      s.Appends t
        [0x2C, 0x00, 0x00, 0x00, 0x00, s.width.extractLsb' 0 8, s.width.extractLsb' 8 8, s.height.extractLsb' 0 8,
          s.height.extractLsb' 8 8, 0x00, 0x08]

/-- spec/42_gif_framer.md R166: F_DATA, one sub-block. -/
def Obligations.FDataWritesSubBlock : Prop :=
  ∀ (s : State) (n : Nat), s.params.Ok → s.pos.toNat < s.csblen.toNat → s.csblen.toNat ≤ s.params.csbCap →
    n = min 255 (s.csblen.toNat - s.pos.toNat) → s.gptr.toNat + n + 1 ≤ s.params.gifCap →
    ∃ t, exec .fData s = .next t ∧ t = { s with gif := t.gif, gptr := t.gptr, pos := t.pos, phase := t.phase } ∧
      1 ≤ n ∧ t.pos.toNat = s.pos.toNat + n ∧
      t.phase = (if s.pos.toNat + n = s.csblen.toNat then 14 else s.phase) ∧
      s.Appends t (BitVec.ofNat 8 n :: (List.range n).map (fun i => s.csbAt (s.pos.toNat + i)))

/-- spec/42_gif_framer.md R167, spec/40_commands.md R121: F_TRAIL ends the file and the run, under BUILD too. The run was
successful, so GIF at and beyond GIFLEN, and under BUILD IDX at and beyond LEN, is unspecified then (log 9). -/
def Obligations.FTrailCompletes : Prop :=
  ∀ s : State, s.params.Ok → s.gptr.toNat + 2 ≤ s.params.gifCap →
    ∃ t, exec .fTrail s = .next t ∧
      t =
        { s with
          gif := t.gif
          gptr := t.gptr
          giflen := t.gptr
          idx := t.idx
          draws := t.draws
          status := ⟨false, true, s.status.err, s.status.errCode, s.status.unit⟩
          chain := false
          phase := 0 } ∧
      t.giflen.toNat = s.gptr.toNat + 2 ∧
      (s.gptr.toNat = 800 + s.csblen.toNat + (s.csblen.toNat + 254) / 255 →
        t.giflen.toNat = 802 + s.csblen.toNat + (s.csblen.toNat + 254) / 255) ∧
      t.gifAt s.gptr.toNat = 0x00 ∧ t.gifAt (s.gptr.toNat + 1) = 0x3B ∧
      (∀ a, a < s.gptr.toNat → t.gifAt a = s.gifAt a) ∧
      (s.chain = false → t.idx = s.idx) ∧ ∀ a, a < s.len.toNat → t.idxAt a = s.idxAt a

/-- spec/42_gif_framer.md R160, spec/40_commands.md R114: a whole FRAME run. It ends after 6 + ceil(CSBLEN / 255) steps (the
step count is the spec's own inference, spec/70_reset_and_hazards.md R262) with DONE and the file of spec/30_encoding.md R89
in GIF. -/
def Obligations.FrameRun : Prop :=
  ∀ s : State, s.params.Ok → s.status.busy = false → s.host = [] →
    s.mincs = 8 → s.width ≠ 0 → s.height ≠ 0 → s.csblen ≠ 0 → s.csblen.toNat ≤ s.params.csbCap →
    802 + s.csblen.toNat + (s.csblen.toNat + 254) / 255 ≤ s.params.gifCap →
    ∃ u t, exec .frame s = .next u ∧ run (6 + (s.csblen.toNat + 254) / 255) u = .next t ∧
      t =
        { s with
          status := ⟨false, true, false, 0, 2⟩
          chain := false
          phase := 0
          giflen := t.giflen
          pos := t.pos
          gptr := t.gptr
          gif := t.gif
          draws := t.draws } ∧
      t.giflen.toNat = 802 + s.csblen.toNat + (s.csblen.toNat + 254) / 255 ∧
      (List.range t.giflen.toNat).map t.gifAt = gifFile s.width s.height s.palList (s.csbList s.csblen.toNat)

/-- spec/30_encoding.md R89 to R98, spec/42_gif_framer.md R169 (the spec's own inference): the layout of the file, for a
palette of 768 bytes: its length, the bytes at its fixed offsets, and that following the length bytes from offset 800 gives
back the compressed bytes and reaches the trailer. -/
def Obligations.GifFileLayout : Prop :=
  ∀ (w h : BitVec 16) (pal csb : List Byte), pal.length = 768 →
    (let file := gifFile w h pal csb;
      file.length = 802 + csb.length + (csb.length + 254) / 255 ∧
      file.take 6 = [0x47, 0x49, 0x46, 0x38, 0x39, 0x61] ∧
      (file.getD 6 0).toNat + 256 * (file.getD 7 0).toNat = w.toNat ∧
      (file.getD 8 0).toNat + 256 * (file.getD 9 0).toNat = h.toNat ∧
      (file.drop 10).take 3 = [0xF7, 0x00, 0x00] ∧
      (file.drop 13).take 768 = pal ∧
      (file.drop 781).take 8 = [0x21, 0xF9, 0x04, 0x00, 0x00, 0x00, 0x00, 0x00] ∧
      (file.drop 789).take 5 = [0x2C, 0x00, 0x00, 0x00, 0x00] ∧
      (file.getD 794 0).toNat + 256 * (file.getD 795 0).toNat = w.toNat ∧
      (file.getD 796 0).toNat + 256 * (file.getD 797 0).toNat = h.toNat ∧
      file.getD 798 0 = 0x00 ∧
      file.getD 799 0 = 0x08 ∧
      readSubBlocks (csb.length + 1) (file.drop 800) = some (csb, [0x3B]))

/-! ## LZW -/

/-- spec/43_lzw.md R186: L_CHECK in every state. -/
def Obligations.LCheckTests : Prop :=
  ∀ s : State,
    (s.mincs.toNat < 2 ∨ 8 < s.mincs.toNat →
      exec .lCheck s =
        .next { s with status := ⟨false, false, true, 5, s.status.unit⟩, chain := false, phase := 0 }) ∧
    (¬(s.mincs.toNat < 2 ∨ 8 < s.mincs.toNat) → s.len = 0 →
      exec .lCheck s =
        .next { s with status := ⟨false, false, true, 3, s.status.unit⟩, chain := false, phase := 0 }) ∧
    (¬(s.mincs.toNat < 2 ∨ 8 < s.mincs.toNat) → s.len ≠ 0 → s.params.maxPix < s.len.toNat →
      exec .lCheck s =
        .next { s with status := ⟨false, false, true, 4, s.status.unit⟩, chain := false, phase := 0 }) ∧
    (¬(s.mincs.toNat < 2 ∨ 8 < s.mincs.toNat) → s.len ≠ 0 → s.len.toNat ≤ s.params.maxPix →
      exec .lCheck s = .next { s with pos := 0, optr := 0, acc := 0, nbits := 0, phase := 17 })

/-- spec/43_lzw.md R187: L_INIT seeds the dictionary and emits the first Clear code; without room in CSB it raises
E_RESOURCE. -/
def Obligations.LInitSeeds : Prop :=
  ∀ s : State, s.params.Ok → s.BufferOk → 2 ≤ s.mincs.toNat → s.mincs.toNat ≤ 8 →
    (s.optr.toNat + (s.nbits.toNat + (s.mincs.toNat + 1)) / 8 ≤ s.params.csbCap →
      ∃ t, exec .lInit s = .next t ∧
        t =
          { s with
            next := t.next
            cw := t.cw
            acc := t.acc
            nbits := t.nbits
            optr := t.optr
            csb := t.csb
            phase := 18 } ∧
        t.next.toNat = 2 ^ s.mincs.toNat + 2 ∧ t.cw.toNat = s.mincs.toNat + 1 ∧
        s.Emits t (2 ^ s.mincs.toNat) (s.mincs.toNat + 1)) ∧
    (s.optr.toNat ≤ s.params.csbCap →
      s.params.csbCap < s.optr.toNat + (s.nbits.toNat + (s.mincs.toNat + 1)) / 8 →
      ∃ t, exec .lInit s = .next t ∧ s.LzwFails t 4)

/-- spec/43_lzw.md R188: L_FIRST: a first byte below CLR becomes the pending prefix; CLR or above raises E_SYMBOL. -/
def Obligations.LFirstTakesByte : Prop :=
  ∀ s : State, s.params.Ok →
    ((s.idxAt 0).toNat < 2 ^ s.mincs.toNat →
      exec .lFirst s =
        .next { s with k := s.idxAt 0, w := (s.idxAt 0).setWidth 12, pos := 1, phase := 19 }) ∧
    (2 ^ s.mincs.toNat ≤ (s.idxAt 0).toNat → ∃ t, exec .lFirst s = .next t ∧ s.LzwFails t 6)

/-- spec/43_lzw.md R182, R189: in phase L_LOOP exactly one case applies, and Lookup answers the entry of a pair, the only one
there is; reading a byte of CLR or above raises E_SYMBOL whatever the case. -/
def Obligations.LoopCaseSelection : Prop :=
  (∀ (s : State) (w : BitVec 12) (k : Byte) (c : Nat), s.DictOk → (s.lookup w k = some c ↔ s.IsEntry w k c)) ∧
  (∀ s : State, s.host = [] → s.phase = 19 → s.pos ≠ s.len → s.pos.toNat < s.params.maxPix →
    2 ^ s.mincs.toNat ≤ (s.idxAt s.pos.toNat).toNat → ∃ t, step s = .next t ∧ s.LzwFails t 6) ∧
  ∀ s : State, s.phase = 19 →
    (s.pos = s.len → decode s.stepCode = .ok .lLoopEnd) ∧
    (∀ c, s.pos ≠ s.len → s.IsEntry s.w (s.idxAt s.pos.toNat) c → decode s.stepCode = .ok .lLoopExtend) ∧
    (s.pos ≠ s.len → (∀ c, ¬s.IsEntry s.w (s.idxAt s.pos.toNat) c) → s.next.toNat < 4096 →
      decode s.stepCode = .ok .lLoopInsert) ∧
    (s.pos ≠ s.len → (∀ c, ¬s.IsEntry s.w (s.idxAt s.pos.toNat) c) → 4096 ≤ s.next.toNat →
      decode s.stepCode = .ok .lLoopReset)

/-- spec/43_lzw.md R190: case EXTEND. -/
def Obligations.LoopExtend : Prop :=
  ∀ (s : State) (c : Nat), s.params.Ok → s.DictOk → s.next.toNat ≤ 4096 → s.pos ≠ s.len →
    s.pos.toNat < s.params.maxPix → (s.idxAt s.pos.toNat).toNat < 2 ^ s.mincs.toNat →
    s.IsEntry s.w (s.idxAt s.pos.toNat) c →
    ∃ t, exec .lLoopExtend s = .next t ∧ t = { s with k := s.idxAt s.pos.toNat, pos := t.pos, w := t.w } ∧
      t.pos.toNat = s.pos.toNat + 1 ∧ t.w.toNat = c

/-- spec/43_lzw.md R191: case INSERT: the emission at the old width, the new entry, NEXT, the growth of CW, the new prefix;
without room in CSB it raises E_RESOURCE. -/
def Obligations.LoopInsert : Prop :=
  ∀ s : State, s.params.Ok → s.BufferOk → s.pos ≠ s.len → s.pos.toNat < s.params.maxPix →
    (s.idxAt s.pos.toNat).toNat < 2 ^ s.mincs.toNat → (∀ c, ¬s.IsEntry s.w (s.idxAt s.pos.toNat) c) →
    s.next.toNat < 4096 → s.cw.toNat ≤ 12 → s.w.toNat < 2 ^ s.cw.toNat →
    (s.optr.toNat + (s.nbits.toNat + s.cw.toNat) / 8 ≤ s.params.csbCap →
      ∃ t, exec .lLoopInsert s = .next t ∧
        t =
          { s with
            k := s.idxAt s.pos.toNat
            w := (s.idxAt s.pos.toNat).setWidth 12
            pos := t.pos
            next := t.next
            cw := t.cw
            acc := t.acc
            nbits := t.nbits
            optr := t.optr
            pfx := t.pfx
            sfx := t.sfx
            csb := t.csb } ∧
        t.pos.toNat = s.pos.toNat + 1 ∧ s.Emits t s.w.toNat s.cw.toNat ∧
        (∀ c, t.pfxAt c = if c = s.next.toNat then s.w else s.pfxAt c) ∧
        (∀ c, t.sfxAt c = if c = s.next.toNat then s.idxAt s.pos.toNat else s.sfxAt c) ∧
        t.next.toNat = s.next.toNat + 1 ∧
        t.cw.toNat = if 2 ^ s.cw.toNat < s.next.toNat + 1 ∧ s.cw.toNat < 12 then s.cw.toNat + 1 else s.cw.toNat) ∧
    (s.optr.toNat ≤ s.params.csbCap → s.params.csbCap < s.optr.toNat + (s.nbits.toNat + s.cw.toNat) / 8 →
      ∃ t, exec .lLoopInsert s = .next t ∧ s.LzwFails t 4)

/-- spec/43_lzw.md R192: case RESET: the prefix and a Clear code at the old width, then the seeded state; the pair that
failed to match is not inserted; without room in CSB it raises E_RESOURCE. -/
def Obligations.LoopReset : Prop :=
  ∀ s : State, s.params.Ok → s.BufferOk → 2 ≤ s.mincs.toNat → s.mincs.toNat ≤ 8 → s.pos ≠ s.len →
    s.pos.toNat < s.params.maxPix → (s.idxAt s.pos.toNat).toNat < 2 ^ s.mincs.toNat →
    (∀ c, ¬s.IsEntry s.w (s.idxAt s.pos.toNat) c) → 4096 ≤ s.next.toNat → s.cw.toNat ≤ 12 →
    s.mincs.toNat < s.cw.toNat → s.w.toNat < 2 ^ s.cw.toNat →
    (s.optr.toNat + (s.nbits.toNat + 2 * s.cw.toNat) / 8 ≤ s.params.csbCap →
      ∃ u t, exec .lLoopReset s = .next t ∧
        t =
          { s with
            k := s.idxAt s.pos.toNat
            w := (s.idxAt s.pos.toNat).setWidth 12
            pos := t.pos
            next := t.next
            cw := t.cw
            acc := t.acc
            nbits := t.nbits
            optr := t.optr
            csb := t.csb } ∧
        t.pos.toNat = s.pos.toNat + 1 ∧ s.Emits u s.w.toNat s.cw.toNat ∧ u.Emits t (2 ^ s.mincs.toNat) s.cw.toNat ∧
        t.next.toNat = 2 ^ s.mincs.toNat + 2 ∧ t.cw.toNat = s.mincs.toNat + 1) ∧
    (s.optr.toNat ≤ s.params.csbCap → s.params.csbCap < s.optr.toNat + (s.nbits.toNat + 2 * s.cw.toNat) / 8 →
      ∃ t, exec .lLoopReset s = .next t ∧ s.LzwFails t 4)

/-- spec/43_lzw.md R193: case END. -/
def Obligations.LoopEnd : Prop :=
  ∀ s : State, s.pos = s.len → exec .lLoopEnd s = .next { s with phase := 20 }

/-- spec/43_lzw.md R194: L_FINISH: the last prefix and End-of-Information at the same width, the padded flush, CSBLEN,
completion, alone or into FRM; without room in CSB it raises E_RESOURCE. CSB at and beyond CSBLEN is unspecified then (log
9). -/
def Obligations.LFinishCompletes : Prop :=
  ∀ s : State, s.params.Ok → s.BufferOk → s.cw.toNat ≤ 12 → s.w.toNat < 2 ^ s.cw.toNat →
    2 ^ s.mincs.toNat + 1 < 2 ^ s.cw.toNat →
    (s.optr.toNat + (s.nbits.toNat + 2 * s.cw.toNat + 7) / 8 ≤ s.params.csbCap →
      ∃ u v t, exec .lFinish s = .next t ∧ s.Emits u s.w.toNat s.cw.toNat ∧
        u.Emits v (2 ^ s.mincs.toNat + 1) s.cw.toNat ∧
        t.csblen = t.optr ∧ 1 ≤ t.csblen.toNat ∧ t.optr.toNat = v.optr.toNat + (if 0 < v.nbits.toNat then 1 else 0) ∧
        (∀ a, a < v.optr.toNat → t.csbAt a = v.csbAt a) ∧
        (0 < v.nbits.toNat → t.csbAt v.optr.toNat = BitVec.ofNat 8 v.acc.toNat ∧ t.acc = 0 ∧ t.nbits = 0) ∧
        (v.nbits.toNat = 0 → t.acc = v.acc ∧ t.nbits = 0) ∧
        (s.chain = false →
          t =
            { s with
              csblen := t.csblen
              acc := t.acc
              nbits := t.nbits
              optr := t.optr
              csb := t.csb
              draws := t.draws
              status := ⟨false, true, s.status.err, s.status.errCode, s.status.unit⟩
              phase := 0 }) ∧
        (s.chain = true →
          t =
            { s with
              csblen := t.csblen
              acc := t.acc
              nbits := t.nbits
              optr := t.optr
              csb := t.csb
              draws := t.draws
              status := ⟨s.status.busy, s.status.done, s.status.err, s.status.errCode, 2⟩
              phase := 8 })) ∧
    (s.optr.toNat ≤ s.params.csbCap → s.params.csbCap < s.optr.toNat + (s.nbits.toNat + 2 * s.cw.toNat + 7) / 8 →
      ∃ t, exec .lFinish s = .next t ∧ s.LzwFails t 4)

/-- spec/43_lzw.md R183, R184: PutByte, and EmitCode: it appends the code's bits, bit 0 first, to the bits produced so far and
keeps the buffer in order; it writes no byte below OPTR or beyond what it counts; without room it raises E_RESOURCE. -/
def Obligations.EmitCodeAppendsBits : Prop :=
  (∀ (s : State) (b : Byte),
    (s.optr.toNat = s.params.csbCap → putByte b s = .error (.raise .resource)) ∧
    (s.optr.toNat < s.params.csbCap → s.params.csbCap < 2 ^ 32 →
      ∃ t, putByte b s = .ok t ∧ t = { s with csb := t.csb, optr := t.optr } ∧ t.optr.toNat = s.optr.toNat + 1 ∧
        ∀ a, t.csbAt a = if a = s.optr.toNat then b else s.csbAt a)) ∧
  ∀ (s : State) (c n : Nat), s.BufferOk → 3 ≤ n → n ≤ 12 → c < 2 ^ n → s.params.csbCap < 2 ^ 32 →
    s.optr.toNat ≤ s.params.csbCap →
    (s.optr.toNat + (s.nbits.toNat + n) / 8 ≤ s.params.csbCap →
      ∃ t, emitCode c n s = .ok t ∧ t = { s with csb := t.csb, acc := t.acc, nbits := t.nbits, optr := t.optr } ∧
        t.BufferOk ∧ t.bitString = s.bitString ++ (List.range n).map c.testBit ∧ s.Emits t c n) ∧
    (s.params.csbCap < s.optr.toNat + (s.nbits.toNat + n) / 8 → emitCode c n s = .error (.raise .resource))

/-- spec/43_lzw.md R195, R198 (the spec's own inferences), spec/40_commands.md R115: a whole LZW run is the summary function.
From any idle state with a legal configuration and symbols below CLR, it ends after LEN + 4 steps with DONE and the stream in
CSB, if the stream fits. -/
def Obligations.LzwRun : Prop :=
  ∀ s : State, s.params.Ok → s.status.busy = false → s.host = [] → 2 ≤ s.mincs.toNat → s.mincs.toNat ≤ 8 →
    1 ≤ s.len.toNat → s.len.toNat ≤ s.params.maxPix →
    (∀ i, i < s.len.toNat → (s.idxAt i).toNat < 2 ^ s.mincs.toNat) →
    (lzwStream s.mincs.toNat (s.indexList s.len.toNat)).length ≤ s.params.csbCap →
    ∃ u t, exec .lzw s = .next u ∧ run (s.len.toNat + 4) u = .next t ∧
      t =
        { s with
          status := ⟨false, true, false, 0, 3⟩
          chain := false
          phase := 0
          csblen := t.csblen
          pos := t.pos
          w := t.w
          k := t.k
          next := t.next
          cw := t.cw
          acc := t.acc
          nbits := t.nbits
          optr := t.optr
          pfx := t.pfx
          sfx := t.sfx
          csb := t.csb
          draws := t.draws } ∧
      t.csbList t.csblen.toNat = lzwStream s.mincs.toNat (s.indexList s.len.toNat)

/-- spec/30_encoding.md R85, R86, R88 (R88 is the spec's own inference): the grammar of the code sequence: Clear first,
End-of-Information last and only there, data between Clears and before the end; every code fits its width, which is MINCS + 1
to 12. -/
def Obligations.CodeStreamGrammar : Prop :=
  ∀ (mcs : Nat) (idx : List Nat), 2 ≤ mcs → mcs ≤ 8 → idx ≠ [] → (∀ x ∈ idx, x < 2 ^ mcs) →
    (let cs := lzwCodes mcs idx;
      cs.head? = some ⟨2 ^ mcs, mcs + 1⟩ ∧
      cs.getLast?.map CodeOut.code = some (2 ^ mcs + 1) ∧
      (∀ c ∈ cs, mcs + 1 ≤ c.bits ∧ c.bits ≤ 12 ∧ c.code < 2 ^ c.bits) ∧
      ∀ a b : CodeOut, [a, b] <:+: cs →
        a.code ≠ 2 ^ mcs + 1 ∧ (a.code = 2 ^ mcs → b.code ≠ 2 ^ mcs ∧ b.code ≠ 2 ^ mcs + 1))

/-- spec/43_lzw.md R194, R198 (the spec's own inference): the length of the stream: at most 2 × LEN + 4 bytes, at least one,
and at least 4 for MINCS = 8. -/
def Obligations.StreamLengthBound : Prop :=
  ∀ (mcs : Nat) (idx : List Nat), 2 ≤ mcs → mcs ≤ 8 → idx ≠ [] →
    (lzwStream mcs idx).length ≤ 2 * idx.length + 4 ∧ 1 ≤ (lzwStream mcs idx).length ∧
      (mcs = 8 → 4 ≤ (lzwStream mcs idx).length)

/-- spec/43_lzw.md R180, R197: the standard decoder of spec/93_implementation_defined.md G3, given the same minimum code size,
expands the stream back to the input, at width boundaries and table resets too. -/
def Obligations.LzwRoundTrip : Prop :=
  ∀ (mcs : Nat) (idx : List Nat), 2 ≤ mcs → mcs ≤ 8 → (∀ x ∈ idx, x < 2 ^ mcs) →
    gifDecode mcs (lzwStream mcs idx) = idx

/-! ## BUILD -/

/-- spec/40_commands.md R116: a whole BUILD run. From any idle state with an image of matching shape, and room for the
largest stream and file, it ends after 14 + 2 COUNT + ceil(CSBLEN / 255) steps (the step count is the spec's own inference,
spec/70_reset_and_hazards.md R262) with DONE: PAL is the padded cut of the samples, IDX holds every pixel's nearest index,
CSB the stream of IDX, and GIF the file built from them. -/
def Obligations.BuildRun : Prop :=
  ∀ s : State, s.params.Ok → s.status.busy = false → s.host = [] →
    1 ≤ s.pixelCount → s.pixelCount ≤ s.params.maxPix → s.pixlen.toNat = 4 * s.pixelCount →
    2 * s.pixelCount + 4 ≤ s.params.csbCap →
    802 + (2 * s.pixelCount + 4) + (2 * s.pixelCount + 4 + 254) / 255 ≤ s.params.gifCap →
    ∃ u t, exec .build s = .next u ∧
      run (14 + 2 * s.pixelCount + (t.csblen.toNat + 254) / 255) u = .next t ∧
      t.status = ⟨false, true, false, 0, 2⟩ ∧ t.chain = false ∧ t.phase = 0 ∧ t.mincs = 8 ∧
      t.ie = s.ie ∧ t.width = s.width ∧ t.height = s.height ∧ t.pixlen = s.pixlen ∧ t.pix = s.pix ∧
      t.len.toNat = s.pixelCount ∧
      (let cols := cut 8 (s.sampledColours s.pixelCount);
        t.ncol.toNat = cols.length ∧ ∀ i, i < 256 → t.palEntry i = cols.getD i black) ∧
      (∀ p, p < s.pixelCount → IsNearest t.palEntry (s.col p) (t.idxAt p).toNat) ∧
      t.csbList t.csblen.toNat = lzwStream 8 (t.indexList s.pixelCount) ∧
      (List.range t.giflen.toNat).map t.gifAt =
        gifFile s.width s.height t.palList (t.csbList t.csblen.toNat)

/-! ## The whole machine -/

/-- The invariant holds right after reset (spec/10_state.md R53; the working registers are the model's choice, log 3). -/
def Obligations.ResetInvariant : Prop := State.reset.Inv

/-- The invariant of Sys2Proof.Safety is kept by every step, of the sequencer and of the outside world
(spec/10_state.md R23, R34, R35, R51 (1) to (6)). -/
def Obligations.StepKeepsInvariant : Prop := ∀ s t : State, s.Inv → step s = .next t → t.Inv

/-- spec/60_exceptions.md R227: there are no other errors: in a state that meets the invariant every step answers a next state,
unless the host makes an access it does not have. -/
def Obligations.EveryStepAnswers : Prop :=
  ∀ s : State, s.Inv → (∀ a rest, s.host = .access a :: rest → a.legal s.params = true) → ∃ t, step s = .next t

/-- spec/40_commands.md R122: a run ends in one of two outcomes, DONE or ERR; after it the sequencer takes no step. -/
def Obligations.RunEndsDoneOrErr : Prop :=
  ∀ s t : State, s.Inv → s.host = [] → s.status.busy = true → step s = .next t → t.status.busy = false →
    t.phase = 0 ∧ t.chain = false ∧ t.status.unit = s.status.unit ∧ step t = .next t ∧
    ((t.status.done = true ∧ t.status.err = false ∧ t.status.errCode = 0 ∧ t.irq = t.ie.doneIe) ∨
      (t.status.done = false ∧ t.status.err = true ∧ 2 ≤ t.status.errCode.toNat ∧ t.status.errCode.toNat ≤ 6 ∧
        t.irq = t.ie.errIe))

/-- spec/60_exceptions.md R228, R229: error entry, whichever step raises: what it records, what it leaves, and that the failing
unit's length register is 0; an error of a CHECK step leaves every memory as it was. -/
def Obligations.ErrorEntryLeaves : Prop :=
  ∀ s t : State, s.Inv → s.host = [] → s.status.busy = true → step s = .next t → t.status.err = true →
    t.status = ⟨false, false, true, t.status.errCode, s.status.unit⟩ ∧ t.chain = false ∧ t.phase = 0 ∧
    t.irq = s.ie.errIe ∧
    t.ie = s.ie ∧ t.width = s.width ∧ t.height = s.height ∧ t.pixlen = s.pixlen ∧ t.len = s.len ∧ t.mincs = s.mincs ∧
    t.csblen = s.csblen ∧ t.giflen = s.giflen ∧ t.ncol = s.ncol ∧
    (s.inQnt → t.ncol = 0) ∧ (s.inLzw → t.csblen = 0) ∧ (s.inFrm → t.giflen = 0) ∧ (s.chain = true → t.giflen = 0) ∧
    t.pix = s.pix ∧ t.smp = s.smp ∧ t.pal = s.pal ∧ t.idx = s.idx ∧ t.gif = s.gif ∧
    (s.phase = 1 ∨ s.phase = 8 ∨ s.phase = 16 → t.pfx = s.pfx ∧ t.sfx = s.sfx ∧ t.csb = s.csb)

/-- spec/40_commands.md R116, spec/42_gif_framer.md R161 (the spec's own inferences): the errors of a BUILD run: Q_CHECK's
three, and E_RESOURCE from LZW after L_CHECK or from F_CHECK; never E_CONFIG or E_SYMBOL. -/
def Obligations.BuildErrors : Prop :=
  ∀ s t : State, s.Inv → s.chain = true → s.host = [] → step s = .next t → t.status.err = true →
    (s.phase = 1 ∧ (t.status.errCode = 2 ∨ t.status.errCode = 3 ∨ t.status.errCode = 4)) ∨
    (17 ≤ s.phase.toNat ∧ s.phase.toNat ≤ 20 ∧ t.status.errCode = 4) ∨ (s.phase = 8 ∧ t.status.errCode = 4)

/-- spec/20_memory.md R66 to R69: a step of a unit writes nothing that is not its unit's: no unit writes PIX or a
configuration register of the host, QNT not the stream or the file and no cell of IDX but the pixel's, LZW not IDX, FRM not
PAL or CSB, and not IDX either: only where F_TRAIL ends a successful BUILD run does IDX at and beyond LEN become unspecified
(log 9). -/
def Obligations.UnitsKeepToTheirOutputs : Prop :=
  ∀ s t : State, s.host = [] → step s = .next t →
    (t.pix = s.pix ∧ t.ie = s.ie ∧ t.width = s.width ∧ t.height = s.height ∧ t.pixlen = s.pixlen ∧ t.mincs = s.mincs ∧
      t.params = s.params ∧ t.host = s.host ∧ t.replies = s.replies) ∧
    (s.inQnt → t.pfx = s.pfx ∧ t.sfx = s.sfx ∧ t.csb = s.csb ∧ t.gif = s.gif ∧ t.csblen = s.csblen ∧
      t.giflen = s.giflen ∧
      (t.status.busy = true → ∀ a, s.phase ≠ 5 ∨ a ≠ s.pos.toNat → t.idxAt a = s.idxAt a)) ∧
    (s.inFrm → (s.phase ≠ 14 ∨ s.chain = false → t.idx = s.idx) ∧ (∀ a, a < s.len.toNat → t.idxAt a = s.idxAt a) ∧
      t.smp = s.smp ∧ t.pal = s.pal ∧ t.pfx = s.pfx ∧ t.sfx = s.sfx ∧ t.csb = s.csb ∧
      t.len = s.len ∧ t.ncol = s.ncol ∧ t.csblen = s.csblen) ∧
    (s.inLzw → t.smp = s.smp ∧ t.pal = s.pal ∧ t.idx = s.idx ∧ t.gif = s.gif ∧ t.len = s.len ∧ t.ncol = s.ncol ∧
      t.giflen = s.giflen)

/-- spec/40_commands.md R120: every run ends, within the step counts of its units (the spec's own inferences,
spec/70_reset_and_hazards.md R262): from any state that meets the invariant, undisturbed, BUSY is 0 after at most 14 + 2
MAXPIX + ceil(CSBCAP / 255) steps. -/
def Obligations.EveryRunTerminates : Prop :=
  ∀ s : State, s.Inv → s.host = [] →
    ∃ k t, k ≤ 14 + 2 * s.params.maxPix + (s.params.csbCap + 254) / 255 ∧ run k s = .next t ∧ t.status.busy = false
end

