-- ==== Sys2Proof/Laws/Decode.lean ====
section
/-! SUPPORT. The decoder as a case split on the word or on PHASE. -/

namespace Sys2Proof

/-- The command decoder as a chain of comparisons (spec/30_encoding.md R81, R82). -/
theorem decodeCommand_eq (w : Word) :
    decodeCommand w =
      if w = 0x00000000 then .nop
      else if w = 0x00000001 then .quant
      else if w = 0x00000002 then .frame
      else if w = 0x00000003 then .lzw
      else if w = 0x00000004 then .build
      else if w = 0x0000000E then .clr
      else if w = 0x0000000F then .srst
      else .reserved (w.extractLsb' 8 24) (w.extractLsb' 0 8) := by
  have hm : w &&& 0xFFFFFFFF = w := by
    have : (0xFFFFFFFF : Word) = BitVec.allOnes 32 := by decide
    rw [this, BitVec.and_allOnes]
  unfold decodeCommand commandRows
  simp only [List.find?_cons, List.find?_nil, hm]
  by_cases h0 : w = 0x00000000
  · simp [h0]
  by_cases h1 : w = 0x00000001
  · simp [h1]
  by_cases h2 : w = 0x00000002
  · simp [h2]
  by_cases h3 : w = 0x00000003
  · simp [h3]
  by_cases h4 : w = 0x00000004
  · simp [h4]
  by_cases h5 : w = 0x0000000E
  · simp [h5]
  by_cases h6 : w = 0x0000000F
  · simp [h6]
  have e : ∀ v : Word, w ≠ v → (w == v) = false := fun v h => by simpa using h
  rw [e _ h0, e _ h1, e _ h2, e _ h3, e _ h4, e _ h5, e _ h6]
  rw [if_neg h0, if_neg h1, if_neg h2, if_neg h3, if_neg h4, if_neg h5, if_neg h6]

/-- The number a reserved command word is. -/
theorem reservedWord_toNat (zero : BitVec 24) (op : BitVec 8) : (zero ++ op).toNat = zero.toNat * 256 + op.toNat := by
  rw [BitVec.toNat_append, Nat.shiftLeft_eq, Nat.mul_comm, ← Nat.two_pow_add_eq_or_of_lt op.isLt]

/-- No two command rows apply to one word. -/
theorem commandRows_disjoint (w : Word) :
    commandRows.Pairwise (fun r q => ¬(w &&& r.mask = r.value ∧ w &&& q.mask = q.value)) := by
  have h : commandRows.Pairwise (fun r q => r.mask = q.mask ∧ r.value ≠ q.value) := by decide
  refine h.imp ?_
  rintro r q ⟨hm, hv⟩ ⟨h1, h2⟩
  rw [hm, h2] at h1
  exact hv h1.symm

/-- No two step rows apply to one PHASE value and case. -/
theorem stepRows_disjoint :
    stepRows.Pairwise (fun r q => ∀ p ∈ [LoopCase.extend, .insert, .reset, .fin],
      ¬(r.applies r.phase p = true ∧ q.applies r.phase p = true)) := by decide

end Sys2Proof
end

