-- ==== Sys2Proof/Laws/Memory.lean ====
section
/-! SUPPORT. The laws of memories: reading after writing, writing elsewhere, and that every operation keeps the canonical form. -/

namespace Sys2Proof.Machine

variable {α : Type}

/-! ## Lists of written cells -/

theorem cellsGet_put_same (cs : List (Nat × α)) (k : Nat) (v : α) : cellsGet (cellsPut cs k v) k = some v := by
  induction cs with
  | nil => simp [cellsPut, cellsGet]
  | cons c rest ih =>
    obtain ⟨a, x⟩ := c
    unfold cellsPut
    split
    · simp [cellsGet]
    · split
      · simp [cellsGet]
      · rename_i hne
        simp [cellsGet, Ne.symm hne, ih]

theorem cellsGet_put_ne (cs : List (Nat × α)) (k j : Nat) (v : α) (h : j ≠ k) :
    cellsGet (cellsPut cs k v) j = cellsGet cs j := by
  induction cs with
  | nil => simp [cellsPut, cellsGet, Ne.symm h]
  | cons c rest ih =>
    obtain ⟨a, x⟩ := c
    unfold cellsPut
    split
    · simp [cellsGet, Ne.symm h]
    · split
      · rename_i heq
        subst heq
        simp [cellsGet, Ne.symm h]
      · simp [cellsGet, ih]

theorem mem_cellsPut (cs : List (Nat × α)) (k : Nat) (v : α) (c : Nat × α) (h : c ∈ cellsPut cs k v) :
    c = (k, v) ∨ c ∈ cs := by
  induction cs with
  | nil => simpa [cellsPut] using h
  | cons d rest ih =>
    obtain ⟨a, x⟩ := d
    unfold cellsPut at h
    split at h
    · simpa using h
    · split at h
      · rcases List.mem_cons.1 h with h | h
        · exact .inl h
        · exact .inr (List.mem_cons_of_mem _ h)
      · rcases List.mem_cons.1 h with h | h
        · exact .inr (h ▸ List.mem_cons_self)
        · exact (ih h).imp id (List.mem_cons_of_mem _)

theorem cellsPut_rising (cs : List (Nat × α)) (k : Nat) (v : α) (h : cs.Pairwise (fun x y => x.1 < y.1)) :
    (cellsPut cs k v).Pairwise (fun x y => x.1 < y.1) := by
  induction cs with
  | nil => simp [cellsPut]
  | cons c rest ih =>
    obtain ⟨a, x⟩ := c
    obtain ⟨hhd, htl⟩ := List.pairwise_cons.1 h
    unfold cellsPut
    split
    · rename_i hlt
      refine List.pairwise_cons.2 ⟨?_, h⟩
      intro d hd
      rcases List.mem_cons.1 hd with rfl | hd
      · exact hlt
      · exact Nat.lt_trans hlt (hhd d hd)
    · split
      · rename_i heq
        subst heq
        exact List.pairwise_cons.2 ⟨hhd, htl⟩
      · rename_i h1 h2
        refine List.pairwise_cons.2 ⟨?_, ih htl⟩
        intro d hd
        rcases mem_cellsPut rest k v d hd with rfl | hd
        · exact Nat.lt_of_le_of_ne (Nat.le_of_not_lt h1) (fun e => h2 e.symm)
        · exact hhd d hd

theorem cellsGet_eq_none_of_lt (cs : List (Nat × α)) (k : Nat) (h : ∀ c ∈ cs, k < c.1) : cellsGet cs k = none := by
  induction cs with
  | nil => rfl
  | cons c rest ih =>
    obtain ⟨a, x⟩ := c
    have ha : k < a := h (a, x) List.mem_cons_self
    simp only [cellsGet, if_neg (Nat.ne_of_gt ha)]
    exact ih (fun d hd => h d (List.mem_cons_of_mem _ hd))

theorem cellsGet_of_mem (cs : List (Nat × α)) (h : cs.Pairwise (fun x y => x.1 < y.1)) (c : Nat × α) (hc : c ∈ cs) :
    cellsGet cs c.1 = some c.2 := by
  induction cs with
  | nil => simp at hc
  | cons d rest ih =>
    obtain ⟨hhd, htl⟩ := List.pairwise_cons.1 h
    rcases List.mem_cons.1 hc with rfl | hc
    · simp [cellsGet]
    · have := hhd c hc
      simp only [cellsGet, if_neg (Nat.ne_of_lt this)]
      exact ih htl hc

theorem mem_of_cellsGet (cs : List (Nat × α)) (k : Nat) (v : α) (h : cellsGet cs k = some v) : (k, v) ∈ cs := by
  induction cs with
  | nil => simp [cellsGet] at h
  | cons c rest ih =>
    obtain ⟨a, x⟩ := c
    unfold cellsGet at h
    split at h
    · rename_i heq
      simp_all
    · exact List.mem_cons_of_mem _ (ih h)

/-- Two canonical lists that hold the same cell at every address are equal. -/
theorem cells_ext (cs ds : List (Nat × α)) (hc : cs.Pairwise (fun x y => x.1 < y.1))
    (hd : ds.Pairwise (fun x y => x.1 < y.1)) (h : ∀ a, cellsGet cs a = cellsGet ds a) : cs = ds := by
  induction cs generalizing ds with
  | nil =>
    cases ds with
    | nil => rfl
    | cons d rest => simpa [cellsGet] using h d.1
  | cons c rest ih =>
    obtain ⟨hch, hct⟩ := List.pairwise_cons.1 hc
    cases ds with
    | nil => simpa [cellsGet] using h c.1
    | cons d more =>
      obtain ⟨hdh, hdt⟩ := List.pairwise_cons.1 hd
      have key : c.1 = d.1 := by
        rcases Nat.lt_trichotomy c.1 d.1 with hlt | heq | hlt
        · have h1 := h c.1
          rw [cellsGet_of_mem _ hc c List.mem_cons_self,
            cellsGet_eq_none_of_lt _ _ (by
              intro e he
              rcases List.mem_cons.1 he with rfl | he
              · exact hlt
              · exact Nat.lt_trans hlt (hdh e he))] at h1
          cases h1
        · exact heq
        · have h1 := h d.1
          rw [cellsGet_of_mem _ hd d List.mem_cons_self,
            cellsGet_eq_none_of_lt _ _ (by
              intro e he
              rcases List.mem_cons.1 he with rfl | he
              · exact hlt
              · exact Nat.lt_trans hlt (hch e he))] at h1
          cases h1
      have hval : c.2 = d.2 := by
        have h1 := h c.1
        rw [cellsGet_of_mem _ hc c List.mem_cons_self, key, cellsGet_of_mem _ hd d List.mem_cons_self] at h1
        exact Option.some.inj h1
      have hcd : c = d := Prod.ext key hval
      subst hcd
      congr 1
      refine ih more hct hdt (fun a => ?_)
      by_cases ha : a = c.1
      · subst ha
        rw [cellsGet_eq_none_of_lt rest _ hch, cellsGet_eq_none_of_lt more _ hdh]
      · simpa [cellsGet, Ne.symm ha] using h a

/-! ## Memories -/

@[simp] theorem Memory.draw_put (m : Memory α) (a : Nat) (v : α) : (m.put a v).draw = m.draw := rfl

@[simp] theorem Memory.get?_put_same (m : Memory α) (a : Nat) (v : α) : (m.put a v).get? a = some v :=
  cellsGet_put_same _ _ _

theorem Memory.get?_put_ne (m : Memory α) (a b : Nat) (v : α) (h : b ≠ a) : (m.put a v).get? b = m.get? b :=
  cellsGet_put_ne _ _ _ _ h

@[simp] theorem Memory.get?_unwritten (d a : Nat) : (Memory.unwritten d : Memory α).get? a = none := rfl

@[simp] theorem Memory.read_put_same (f : Nat → Nat → α) (m : Memory α) (a : Nat) (v : α) :
    (m.put a v).read f a = v := by
  simp [Memory.read]

theorem Memory.read_put_ne (f : Nat → Nat → α) (m : Memory α) (a b : Nat) (v : α) (h : b ≠ a) :
    (m.put a v).read f b = m.read f b := by
  simp [Memory.read, Memory.get?_put_ne m a b v h]

/-- A read after a write, at any address. -/
theorem Memory.read_put (f : Nat → Nat → α) (m : Memory α) (a b : Nat) (v : α) :
    (m.put a v).read f b = if b = a then v else m.read f b := by
  split
  · subst b
    simp
  · exact Memory.read_put_ne f m a b v ‹_›

@[simp] theorem Memory.draw_putList (m : Memory α) (a : Nat) (vs : List α) : (m.putList a vs).draw = m.draw := by
  induction vs generalizing a with
  | nil => rfl
  | cons v vs ih => simp [Memory.putList, ih]

/-- What a memory holds after a list is written: the list's values at its addresses, the old cells elsewhere. -/
theorem Memory.get?_putList (m : Memory α) (a b : Nat) (vs : List α) :
    (m.putList a vs).get? b = if a ≤ b ∧ b < a + vs.length then vs[b - a]? else m.get? b := by
  induction vs generalizing a with
  | nil =>
    have : ¬(a ≤ b ∧ b < a + ([] : List α).length) := by simp
    rw [if_neg this]
    rfl
  | cons v vs ih =>
    by_cases hb : b = a
    · subst hb
      simp [Memory.putList]
    · rw [Memory.putList, Memory.get?_put_ne _ _ _ _ hb, ih (a + 1)]
      by_cases h : a + 1 ≤ b ∧ b < a + 1 + vs.length
      · have h' : a ≤ b ∧ b < a + (v :: vs).length := by simp; omega
        rw [if_pos h, if_pos h']
        have e : b - a = (b - (a + 1)) + 1 := by omega
        rw [e, List.getElem?_cons_succ]
      · have h' : ¬(a ≤ b ∧ b < a + (v :: vs).length) := by simp; omega
        rw [if_neg h, if_neg h']

/-- A read after a list is written. -/
theorem Memory.read_putList (f : Nat → Nat → α) (m : Memory α) (a b : Nat) (vs : List α) :
    (m.putList a vs).read f b = if h : a ≤ b ∧ b < a + vs.length then vs[b - a]'(by omega) else m.read f b := by
  unfold Memory.read
  rw [Memory.get?_putList]
  split
  · rename_i h
    rw [List.getElem?_eq_getElem (by omega)]
    rfl
  · simp

theorem Memory.wf_unwritten (d : Nat) : (Memory.unwritten d : Memory α).wf := List.Pairwise.nil

theorem Memory.wf_put {m : Memory α} (h : m.wf) (a : Nat) (v : α) : (m.put a v).wf := cellsPut_rising _ _ _ h

theorem Memory.wf_putList {m : Memory α} (h : m.wf) (a : Nat) (vs : List α) : (m.putList a vs).wf := by
  induction vs generalizing a with
  | nil => exact h
  | cons v vs ih => exact Memory.wf_put (ih (a + 1)) a v

theorem Memory.within_unwritten (d n : Nat) : (Memory.unwritten d : Memory α).within n := by simp [Memory.within]

theorem Memory.within_put {m : Memory α} {n : Nat} (h : m.within n) {a : Nat} (ha : a < n) (v : α) :
    (m.put a v).within n := by
  intro c hc
  rcases mem_cellsPut _ _ _ _ hc with rfl | hc
  · exact ha
  · exact h c hc

theorem Memory.within_putList {m : Memory α} {n : Nat} (h : m.within n) {a : Nat} (vs : List α)
    (ha : a + vs.length ≤ n) : (m.putList a vs).within n := by
  induction vs generalizing a with
  | nil => exact h
  | cons v vs ih =>
    simp only [List.length_cons] at ha
    exact Memory.within_put (ih (a := a + 1) (by omega)) (by omega) v

@[simp] theorem Memory.draw_forgetFrom (sp : Space) (n d : Nat) (m : Memory Byte) :
    (m.forgetFrom sp n d).draw = m.draw := rfl

theorem cellsGet_map (f : Nat → Byte → Byte) (cs : List (Nat × Byte)) (a : Nat) :
    cellsGet (cs.map (fun c => (c.1, f c.1 c.2))) a = (cellsGet cs a).map (f a) := by
  induction cs with
  | nil => rfl
  | cons c rest ih =>
    obtain ⟨b, x⟩ := c
    simp only [List.map_cons, cellsGet]
    split
    · subst b
      rfl
    · exact ih

/-- Below the length nothing is forgotten. -/
theorem Memory.read_forgetFrom_lt (f : Nat → Nat → Byte) (sp : Space) (n d : Nat) (m : Memory Byte) (a : Nat)
    (h : a < n) : (m.forgetFrom sp n d).read f a = m.read f a := by
  unfold Memory.read Memory.get? Memory.forgetFrom
  rw [cellsGet_map (fun i v => if i < n then v else Config.drawnTail sp d i)]
  cases cellsGet m.cells a with
  | none => rfl
  | some v => simp [h]

theorem Memory.wf_forgetFrom {m : Memory Byte} (h : m.wf) (sp : Space) (n d : Nat) : (m.forgetFrom sp n d).wf :=
  List.pairwise_map.2 h

theorem Memory.within_forgetFrom {m : Memory Byte} {b : Nat} (h : m.within b) (sp : Space) (n d : Nat) :
    (m.forgetFrom sp n d).within b := by
  intro c hc
  obtain ⟨x, hx, rfl⟩ := List.mem_map.1 hc
  exact h x hx

end Sys2Proof.Machine
end

