-- ==== Sys2Proof/Laws/State.lean ====
section
/-! SUPPORT. For each named update of State, what each field is afterwards; true by unfolding the update once. -/

namespace Sys2Proof.Machine

variable (s : State)

/-! ## After launch (spec/40_commands.md R112) -/

@[simp] theorem State.launch_status (u : UnitName) (c : Bool) (p : BitVec 5) :
    (s.launch u c p).status =
      Status.launched u := rfl
@[simp] theorem State.launch_ie (u : UnitName) (c : Bool) (p : BitVec 5) : (s.launch u c p).ie = s.ie := rfl
@[simp] theorem State.launch_width (u : UnitName) (c : Bool) (p : BitVec 5) : (s.launch u c p).width = s.width := rfl
@[simp] theorem State.launch_height (u : UnitName) (c : Bool) (p : BitVec 5) :
    (s.launch u c p).height =
      s.height := rfl
@[simp] theorem State.launch_pixlen (u : UnitName) (c : Bool) (p : BitVec 5) :
    (s.launch u c p).pixlen =
      s.pixlen := rfl
@[simp] theorem State.launch_len (u : UnitName) (c : Bool) (p : BitVec 5) : (s.launch u c p).len = s.len := rfl
@[simp] theorem State.launch_mincs (u : UnitName) (c : Bool) (p : BitVec 5) : (s.launch u c p).mincs = s.mincs := rfl
@[simp] theorem State.launch_csblen (u : UnitName) (c : Bool) (p : BitVec 5) :
    (s.launch u c p).csblen =
      s.csblen := rfl
@[simp] theorem State.launch_giflen (u : UnitName) (c : Bool) (p : BitVec 5) :
    (s.launch u c p).giflen =
      s.giflen := rfl
@[simp] theorem State.launch_ncol (u : UnitName) (c : Bool) (p : BitVec 5) : (s.launch u c p).ncol = s.ncol := rfl
@[simp] theorem State.launch_phase (u : UnitName) (c : Bool) (p : BitVec 5) : (s.launch u c p).phase = p := rfl
@[simp] theorem State.launch_chain (u : UnitName) (c : Bool) (p : BitVec 5) : (s.launch u c p).chain = c := rfl
@[simp] theorem State.launch_pos (u : UnitName) (c : Bool) (p : BitVec 5) : (s.launch u c p).pos = s.pos := rfl
@[simp] theorem State.launch_w (u : UnitName) (c : Bool) (p : BitVec 5) : (s.launch u c p).w = s.w := rfl
@[simp] theorem State.launch_k (u : UnitName) (c : Bool) (p : BitVec 5) : (s.launch u c p).k = s.k := rfl
@[simp] theorem State.launch_next (u : UnitName) (c : Bool) (p : BitVec 5) : (s.launch u c p).next = s.next := rfl
@[simp] theorem State.launch_cw (u : UnitName) (c : Bool) (p : BitVec 5) : (s.launch u c p).cw = s.cw := rfl
@[simp] theorem State.launch_acc (u : UnitName) (c : Bool) (p : BitVec 5) : (s.launch u c p).acc = s.acc := rfl
@[simp] theorem State.launch_nbits (u : UnitName) (c : Bool) (p : BitVec 5) : (s.launch u c p).nbits = s.nbits := rfl
@[simp] theorem State.launch_optr (u : UnitName) (c : Bool) (p : BitVec 5) : (s.launch u c p).optr = s.optr := rfl
@[simp] theorem State.launch_count (u : UnitName) (c : Bool) (p : BitVec 5) : (s.launch u c p).count = s.count := rfl
@[simp] theorem State.launch_stride (u : UnitName) (c : Bool) (p : BitVec 5) :
    (s.launch u c p).stride =
      s.stride := rfl
@[simp] theorem State.launch_nsmp (u : UnitName) (c : Bool) (p : BitVec 5) : (s.launch u c p).nsmp = s.nsmp := rfl
@[simp] theorem State.launch_ncolw (u : UnitName) (c : Bool) (p : BitVec 5) : (s.launch u c p).ncolw = s.ncolw := rfl
@[simp] theorem State.launch_gptr (u : UnitName) (c : Bool) (p : BitVec 5) : (s.launch u c p).gptr = s.gptr := rfl
@[simp] theorem State.launch_pix (u : UnitName) (c : Bool) (p : BitVec 5) : (s.launch u c p).pix = s.pix := rfl
@[simp] theorem State.launch_smp (u : UnitName) (c : Bool) (p : BitVec 5) : (s.launch u c p).smp = s.smp := rfl
@[simp] theorem State.launch_pal (u : UnitName) (c : Bool) (p : BitVec 5) : (s.launch u c p).pal = s.pal := rfl
@[simp] theorem State.launch_idx (u : UnitName) (c : Bool) (p : BitVec 5) : (s.launch u c p).idx = s.idx := rfl
@[simp] theorem State.launch_pfx (u : UnitName) (c : Bool) (p : BitVec 5) : (s.launch u c p).pfx = s.pfx := rfl
@[simp] theorem State.launch_sfx (u : UnitName) (c : Bool) (p : BitVec 5) : (s.launch u c p).sfx = s.sfx := rfl
@[simp] theorem State.launch_csb (u : UnitName) (c : Bool) (p : BitVec 5) : (s.launch u c p).csb = s.csb := rfl
@[simp] theorem State.launch_gif (u : UnitName) (c : Bool) (p : BitVec 5) : (s.launch u c p).gif = s.gif := rfl
@[simp] theorem State.launch_params (u : UnitName) (c : Bool) (p : BitVec 5) :
    (s.launch u c p).params =
      s.params := rfl
@[simp] theorem State.launch_host (u : UnitName) (c : Bool) (p : BitVec 5) : (s.launch u c p).host = s.host := rfl
@[simp] theorem State.launch_replies (u : UnitName) (c : Bool) (p : BitVec 5) :
    (s.launch u c p).replies =
      s.replies := rfl
@[simp] theorem State.launch_draws (u : UnitName) (c : Bool) (p : BitVec 5) : (s.launch u c p).draws = s.draws := rfl

/-! ## After error entry (spec/60_exceptions.md R228) -/

@[simp] theorem State.errorEntry_status (e : ErrName) : (s.errorEntry e).status = s.status.failed e := rfl
@[simp] theorem State.errorEntry_ie (e : ErrName) : (s.errorEntry e).ie = s.ie := rfl
@[simp] theorem State.errorEntry_width (e : ErrName) : (s.errorEntry e).width = s.width := rfl
@[simp] theorem State.errorEntry_height (e : ErrName) : (s.errorEntry e).height = s.height := rfl
@[simp] theorem State.errorEntry_pixlen (e : ErrName) : (s.errorEntry e).pixlen = s.pixlen := rfl
@[simp] theorem State.errorEntry_len (e : ErrName) : (s.errorEntry e).len = s.len := rfl
@[simp] theorem State.errorEntry_mincs (e : ErrName) : (s.errorEntry e).mincs = s.mincs := rfl
@[simp] theorem State.errorEntry_csblen (e : ErrName) : (s.errorEntry e).csblen = s.csblen := rfl
@[simp] theorem State.errorEntry_giflen (e : ErrName) : (s.errorEntry e).giflen = s.giflen := rfl
@[simp] theorem State.errorEntry_ncol (e : ErrName) : (s.errorEntry e).ncol = s.ncol := rfl
@[simp] theorem State.errorEntry_phase (e : ErrName) : (s.errorEntry e).phase = phIdle := rfl
@[simp] theorem State.errorEntry_chain (e : ErrName) : (s.errorEntry e).chain = false := rfl
@[simp] theorem State.errorEntry_pos (e : ErrName) : (s.errorEntry e).pos = s.pos := rfl
@[simp] theorem State.errorEntry_w (e : ErrName) : (s.errorEntry e).w = s.w := rfl
@[simp] theorem State.errorEntry_k (e : ErrName) : (s.errorEntry e).k = s.k := rfl
@[simp] theorem State.errorEntry_next (e : ErrName) : (s.errorEntry e).next = s.next := rfl
@[simp] theorem State.errorEntry_cw (e : ErrName) : (s.errorEntry e).cw = s.cw := rfl
@[simp] theorem State.errorEntry_acc (e : ErrName) : (s.errorEntry e).acc = s.acc := rfl
@[simp] theorem State.errorEntry_nbits (e : ErrName) : (s.errorEntry e).nbits = s.nbits := rfl
@[simp] theorem State.errorEntry_optr (e : ErrName) : (s.errorEntry e).optr = s.optr := rfl
@[simp] theorem State.errorEntry_count (e : ErrName) : (s.errorEntry e).count = s.count := rfl
@[simp] theorem State.errorEntry_stride (e : ErrName) : (s.errorEntry e).stride = s.stride := rfl
@[simp] theorem State.errorEntry_nsmp (e : ErrName) : (s.errorEntry e).nsmp = s.nsmp := rfl
@[simp] theorem State.errorEntry_ncolw (e : ErrName) : (s.errorEntry e).ncolw = s.ncolw := rfl
@[simp] theorem State.errorEntry_gptr (e : ErrName) : (s.errorEntry e).gptr = s.gptr := rfl
@[simp] theorem State.errorEntry_pix (e : ErrName) : (s.errorEntry e).pix = s.pix := rfl
@[simp] theorem State.errorEntry_smp (e : ErrName) : (s.errorEntry e).smp = s.smp := rfl
@[simp] theorem State.errorEntry_pal (e : ErrName) : (s.errorEntry e).pal = s.pal := rfl
@[simp] theorem State.errorEntry_idx (e : ErrName) : (s.errorEntry e).idx = s.idx := rfl
@[simp] theorem State.errorEntry_pfx (e : ErrName) : (s.errorEntry e).pfx = s.pfx := rfl
@[simp] theorem State.errorEntry_sfx (e : ErrName) : (s.errorEntry e).sfx = s.sfx := rfl
@[simp] theorem State.errorEntry_csb (e : ErrName) : (s.errorEntry e).csb = s.csb := rfl
@[simp] theorem State.errorEntry_gif (e : ErrName) : (s.errorEntry e).gif = s.gif := rfl
@[simp] theorem State.errorEntry_params (e : ErrName) : (s.errorEntry e).params = s.params := rfl
@[simp] theorem State.errorEntry_host (e : ErrName) : (s.errorEntry e).host = s.host := rfl
@[simp] theorem State.errorEntry_replies (e : ErrName) : (s.errorEntry e).replies = s.replies := rfl
@[simp] theorem State.errorEntry_draws (e : ErrName) : (s.errorEntry e).draws = s.draws := rfl

/-! ## After PutG (spec/42_gif_framer.md R168) -/

@[simp] theorem State.putG_status (b : Byte) : (s.putG b).status = s.status := rfl
@[simp] theorem State.putG_ie (b : Byte) : (s.putG b).ie = s.ie := rfl
@[simp] theorem State.putG_width (b : Byte) : (s.putG b).width = s.width := rfl
@[simp] theorem State.putG_height (b : Byte) : (s.putG b).height = s.height := rfl
@[simp] theorem State.putG_pixlen (b : Byte) : (s.putG b).pixlen = s.pixlen := rfl
@[simp] theorem State.putG_len (b : Byte) : (s.putG b).len = s.len := rfl
@[simp] theorem State.putG_mincs (b : Byte) : (s.putG b).mincs = s.mincs := rfl
@[simp] theorem State.putG_csblen (b : Byte) : (s.putG b).csblen = s.csblen := rfl
@[simp] theorem State.putG_giflen (b : Byte) : (s.putG b).giflen = s.giflen := rfl
@[simp] theorem State.putG_ncol (b : Byte) : (s.putG b).ncol = s.ncol := rfl
@[simp] theorem State.putG_phase (b : Byte) : (s.putG b).phase = s.phase := rfl
@[simp] theorem State.putG_chain (b : Byte) : (s.putG b).chain = s.chain := rfl
@[simp] theorem State.putG_pos (b : Byte) : (s.putG b).pos = s.pos := rfl
@[simp] theorem State.putG_w (b : Byte) : (s.putG b).w = s.w := rfl
@[simp] theorem State.putG_k (b : Byte) : (s.putG b).k = s.k := rfl
@[simp] theorem State.putG_next (b : Byte) : (s.putG b).next = s.next := rfl
@[simp] theorem State.putG_cw (b : Byte) : (s.putG b).cw = s.cw := rfl
@[simp] theorem State.putG_acc (b : Byte) : (s.putG b).acc = s.acc := rfl
@[simp] theorem State.putG_nbits (b : Byte) : (s.putG b).nbits = s.nbits := rfl
@[simp] theorem State.putG_optr (b : Byte) : (s.putG b).optr = s.optr := rfl
@[simp] theorem State.putG_count (b : Byte) : (s.putG b).count = s.count := rfl
@[simp] theorem State.putG_stride (b : Byte) : (s.putG b).stride = s.stride := rfl
@[simp] theorem State.putG_nsmp (b : Byte) : (s.putG b).nsmp = s.nsmp := rfl
@[simp] theorem State.putG_ncolw (b : Byte) : (s.putG b).ncolw = s.ncolw := rfl
@[simp] theorem State.putG_gptr (b : Byte) : (s.putG b).gptr = s.gptr + 1 := rfl
@[simp] theorem State.putG_pix (b : Byte) : (s.putG b).pix = s.pix := rfl
@[simp] theorem State.putG_smp (b : Byte) : (s.putG b).smp = s.smp := rfl
@[simp] theorem State.putG_pal (b : Byte) : (s.putG b).pal = s.pal := rfl
@[simp] theorem State.putG_idx (b : Byte) : (s.putG b).idx = s.idx := rfl
@[simp] theorem State.putG_pfx (b : Byte) : (s.putG b).pfx = s.pfx := rfl
@[simp] theorem State.putG_sfx (b : Byte) : (s.putG b).sfx = s.sfx := rfl
@[simp] theorem State.putG_csb (b : Byte) : (s.putG b).csb = s.csb := rfl
@[simp] theorem State.putG_gif (b : Byte) : (s.putG b).gif = s.gif.put s.gptr.toNat b := rfl
@[simp] theorem State.putG_params (b : Byte) : (s.putG b).params = s.params := rfl
@[simp] theorem State.putG_host (b : Byte) : (s.putG b).host = s.host := rfl
@[simp] theorem State.putG_replies (b : Byte) : (s.putG b).replies = s.replies := rfl
@[simp] theorem State.putG_draws (b : Byte) : (s.putG b).draws = s.draws := rfl

/-! ## After the seeded state (spec/43_lzw.md R187) -/

@[simp] theorem State.seed_status : (s.seed).status = s.status := rfl
@[simp] theorem State.seed_ie : (s.seed).ie = s.ie := rfl
@[simp] theorem State.seed_width : (s.seed).width = s.width := rfl
@[simp] theorem State.seed_height : (s.seed).height = s.height := rfl
@[simp] theorem State.seed_pixlen : (s.seed).pixlen = s.pixlen := rfl
@[simp] theorem State.seed_len : (s.seed).len = s.len := rfl
@[simp] theorem State.seed_mincs : (s.seed).mincs = s.mincs := rfl
@[simp] theorem State.seed_csblen : (s.seed).csblen = s.csblen := rfl
@[simp] theorem State.seed_giflen : (s.seed).giflen = s.giflen := rfl
@[simp] theorem State.seed_ncol : (s.seed).ncol = s.ncol := rfl
@[simp] theorem State.seed_phase : (s.seed).phase = s.phase := rfl
@[simp] theorem State.seed_chain : (s.seed).chain = s.chain := rfl
@[simp] theorem State.seed_pos : (s.seed).pos = s.pos := rfl
@[simp] theorem State.seed_w : (s.seed).w = s.w := rfl
@[simp] theorem State.seed_k : (s.seed).k = s.k := rfl
@[simp] theorem State.seed_next : (s.seed).next = BitVec.ofNat 13 s.first := rfl
@[simp] theorem State.seed_cw : (s.seed).cw = s.mincs + 1 := rfl
@[simp] theorem State.seed_acc : (s.seed).acc = s.acc := rfl
@[simp] theorem State.seed_nbits : (s.seed).nbits = s.nbits := rfl
@[simp] theorem State.seed_optr : (s.seed).optr = s.optr := rfl
@[simp] theorem State.seed_count : (s.seed).count = s.count := rfl
@[simp] theorem State.seed_stride : (s.seed).stride = s.stride := rfl
@[simp] theorem State.seed_nsmp : (s.seed).nsmp = s.nsmp := rfl
@[simp] theorem State.seed_ncolw : (s.seed).ncolw = s.ncolw := rfl
@[simp] theorem State.seed_gptr : (s.seed).gptr = s.gptr := rfl
@[simp] theorem State.seed_pix : (s.seed).pix = s.pix := rfl
@[simp] theorem State.seed_smp : (s.seed).smp = s.smp := rfl
@[simp] theorem State.seed_pal : (s.seed).pal = s.pal := rfl
@[simp] theorem State.seed_idx : (s.seed).idx = s.idx := rfl
@[simp] theorem State.seed_pfx : (s.seed).pfx = s.pfx := rfl
@[simp] theorem State.seed_sfx : (s.seed).sfx = s.sfx := rfl
@[simp] theorem State.seed_csb : (s.seed).csb = s.csb := rfl
@[simp] theorem State.seed_gif : (s.seed).gif = s.gif := rfl
@[simp] theorem State.seed_params : (s.seed).params = s.params := rfl
@[simp] theorem State.seed_host : (s.seed).host = s.host := rfl
@[simp] theorem State.seed_replies : (s.seed).replies = s.replies := rfl
@[simp] theorem State.seed_draws : (s.seed).draws = s.draws := rfl

/-! ## After an insertion (spec/43_lzw.md R191) -/

@[simp] theorem State.insertEntry_status : (s.insertEntry).status = s.status := rfl
@[simp] theorem State.insertEntry_ie : (s.insertEntry).ie = s.ie := rfl
@[simp] theorem State.insertEntry_width : (s.insertEntry).width = s.width := rfl
@[simp] theorem State.insertEntry_height : (s.insertEntry).height = s.height := rfl
@[simp] theorem State.insertEntry_pixlen : (s.insertEntry).pixlen = s.pixlen := rfl
@[simp] theorem State.insertEntry_len : (s.insertEntry).len = s.len := rfl
@[simp] theorem State.insertEntry_mincs : (s.insertEntry).mincs = s.mincs := rfl
@[simp] theorem State.insertEntry_csblen : (s.insertEntry).csblen = s.csblen := rfl
@[simp] theorem State.insertEntry_giflen : (s.insertEntry).giflen = s.giflen := rfl
@[simp] theorem State.insertEntry_ncol : (s.insertEntry).ncol = s.ncol := rfl
@[simp] theorem State.insertEntry_phase : (s.insertEntry).phase = s.phase := rfl
@[simp] theorem State.insertEntry_chain : (s.insertEntry).chain = s.chain := rfl
@[simp] theorem State.insertEntry_pos : (s.insertEntry).pos = s.pos := rfl
@[simp] theorem State.insertEntry_w : (s.insertEntry).w = s.k.setWidth 12 := rfl
@[simp] theorem State.insertEntry_k : (s.insertEntry).k = s.k := rfl
@[simp] theorem State.insertEntry_next : (s.insertEntry).next = s.next + 1 := rfl
@[simp] theorem State.insertEntry_cw :
    (s.insertEntry).cw =
      if 2 ^ s.cw.toNat < s.next.toNat + 1 ∧ s.cw.toNat < maxCw then s.cw + 1 else s.cw := rfl
@[simp] theorem State.insertEntry_acc : (s.insertEntry).acc = s.acc := rfl
@[simp] theorem State.insertEntry_nbits : (s.insertEntry).nbits = s.nbits := rfl
@[simp] theorem State.insertEntry_optr : (s.insertEntry).optr = s.optr := rfl
@[simp] theorem State.insertEntry_count : (s.insertEntry).count = s.count := rfl
@[simp] theorem State.insertEntry_stride : (s.insertEntry).stride = s.stride := rfl
@[simp] theorem State.insertEntry_nsmp : (s.insertEntry).nsmp = s.nsmp := rfl
@[simp] theorem State.insertEntry_ncolw : (s.insertEntry).ncolw = s.ncolw := rfl
@[simp] theorem State.insertEntry_gptr : (s.insertEntry).gptr = s.gptr := rfl
@[simp] theorem State.insertEntry_pix : (s.insertEntry).pix = s.pix := rfl
@[simp] theorem State.insertEntry_smp : (s.insertEntry).smp = s.smp := rfl
@[simp] theorem State.insertEntry_pal : (s.insertEntry).pal = s.pal := rfl
@[simp] theorem State.insertEntry_idx : (s.insertEntry).idx = s.idx := rfl
@[simp] theorem State.insertEntry_pfx : (s.insertEntry).pfx = s.pfx.put s.next.toNat s.w := rfl
@[simp] theorem State.insertEntry_sfx : (s.insertEntry).sfx = s.sfx.put s.next.toNat s.k := rfl
@[simp] theorem State.insertEntry_csb : (s.insertEntry).csb = s.csb := rfl
@[simp] theorem State.insertEntry_gif : (s.insertEntry).gif = s.gif := rfl
@[simp] theorem State.insertEntry_params : (s.insertEntry).params = s.params := rfl
@[simp] theorem State.insertEntry_host : (s.insertEntry).host = s.host := rfl
@[simp] theorem State.insertEntry_replies : (s.insertEntry).replies = s.replies := rfl
@[simp] theorem State.insertEntry_draws : (s.insertEntry).draws = s.draws := rfl

/-! ## After a reply to the host -/

@[simp] theorem State.reply_status (v : Word) : (s.reply v).status = s.status := rfl
@[simp] theorem State.reply_ie (v : Word) : (s.reply v).ie = s.ie := rfl
@[simp] theorem State.reply_width (v : Word) : (s.reply v).width = s.width := rfl
@[simp] theorem State.reply_height (v : Word) : (s.reply v).height = s.height := rfl
@[simp] theorem State.reply_pixlen (v : Word) : (s.reply v).pixlen = s.pixlen := rfl
@[simp] theorem State.reply_len (v : Word) : (s.reply v).len = s.len := rfl
@[simp] theorem State.reply_mincs (v : Word) : (s.reply v).mincs = s.mincs := rfl
@[simp] theorem State.reply_csblen (v : Word) : (s.reply v).csblen = s.csblen := rfl
@[simp] theorem State.reply_giflen (v : Word) : (s.reply v).giflen = s.giflen := rfl
@[simp] theorem State.reply_ncol (v : Word) : (s.reply v).ncol = s.ncol := rfl
@[simp] theorem State.reply_phase (v : Word) : (s.reply v).phase = s.phase := rfl
@[simp] theorem State.reply_chain (v : Word) : (s.reply v).chain = s.chain := rfl
@[simp] theorem State.reply_pos (v : Word) : (s.reply v).pos = s.pos := rfl
@[simp] theorem State.reply_w (v : Word) : (s.reply v).w = s.w := rfl
@[simp] theorem State.reply_k (v : Word) : (s.reply v).k = s.k := rfl
@[simp] theorem State.reply_next (v : Word) : (s.reply v).next = s.next := rfl
@[simp] theorem State.reply_cw (v : Word) : (s.reply v).cw = s.cw := rfl
@[simp] theorem State.reply_acc (v : Word) : (s.reply v).acc = s.acc := rfl
@[simp] theorem State.reply_nbits (v : Word) : (s.reply v).nbits = s.nbits := rfl
@[simp] theorem State.reply_optr (v : Word) : (s.reply v).optr = s.optr := rfl
@[simp] theorem State.reply_count (v : Word) : (s.reply v).count = s.count := rfl
@[simp] theorem State.reply_stride (v : Word) : (s.reply v).stride = s.stride := rfl
@[simp] theorem State.reply_nsmp (v : Word) : (s.reply v).nsmp = s.nsmp := rfl
@[simp] theorem State.reply_ncolw (v : Word) : (s.reply v).ncolw = s.ncolw := rfl
@[simp] theorem State.reply_gptr (v : Word) : (s.reply v).gptr = s.gptr := rfl
@[simp] theorem State.reply_pix (v : Word) : (s.reply v).pix = s.pix := rfl
@[simp] theorem State.reply_smp (v : Word) : (s.reply v).smp = s.smp := rfl
@[simp] theorem State.reply_pal (v : Word) : (s.reply v).pal = s.pal := rfl
@[simp] theorem State.reply_idx (v : Word) : (s.reply v).idx = s.idx := rfl
@[simp] theorem State.reply_pfx (v : Word) : (s.reply v).pfx = s.pfx := rfl
@[simp] theorem State.reply_sfx (v : Word) : (s.reply v).sfx = s.sfx := rfl
@[simp] theorem State.reply_csb (v : Word) : (s.reply v).csb = s.csb := rfl
@[simp] theorem State.reply_gif (v : Word) : (s.reply v).gif = s.gif := rfl
@[simp] theorem State.reply_params (v : Word) : (s.reply v).params = s.params := rfl
@[simp] theorem State.reply_host (v : Word) : (s.reply v).host = s.host := rfl
@[simp] theorem State.reply_replies (v : Word) : (s.reply v).replies = v :: s.replies := rfl
@[simp] theorem State.reply_draws (v : Word) : (s.reply v).draws = s.draws := rfl

/-! ## After a command word placed as the host's next move -/

@[simp] theorem State.withCommand_status (v : Word) :
    (s.withCommand v).status =
      { s.status with busy := false } := rfl
@[simp] theorem State.withCommand_ie (v : Word) : (s.withCommand v).ie = s.ie := rfl
@[simp] theorem State.withCommand_width (v : Word) : (s.withCommand v).width = s.width := rfl
@[simp] theorem State.withCommand_height (v : Word) : (s.withCommand v).height = s.height := rfl
@[simp] theorem State.withCommand_pixlen (v : Word) : (s.withCommand v).pixlen = s.pixlen := rfl
@[simp] theorem State.withCommand_len (v : Word) : (s.withCommand v).len = s.len := rfl
@[simp] theorem State.withCommand_mincs (v : Word) : (s.withCommand v).mincs = s.mincs := rfl
@[simp] theorem State.withCommand_csblen (v : Word) : (s.withCommand v).csblen = s.csblen := rfl
@[simp] theorem State.withCommand_giflen (v : Word) : (s.withCommand v).giflen = s.giflen := rfl
@[simp] theorem State.withCommand_ncol (v : Word) : (s.withCommand v).ncol = s.ncol := rfl
@[simp] theorem State.withCommand_phase (v : Word) : (s.withCommand v).phase = phIdle := rfl
@[simp] theorem State.withCommand_chain (v : Word) : (s.withCommand v).chain = s.chain := rfl
@[simp] theorem State.withCommand_pos (v : Word) : (s.withCommand v).pos = s.pos := rfl
@[simp] theorem State.withCommand_w (v : Word) : (s.withCommand v).w = s.w := rfl
@[simp] theorem State.withCommand_k (v : Word) : (s.withCommand v).k = s.k := rfl
@[simp] theorem State.withCommand_next (v : Word) : (s.withCommand v).next = s.next := rfl
@[simp] theorem State.withCommand_cw (v : Word) : (s.withCommand v).cw = s.cw := rfl
@[simp] theorem State.withCommand_acc (v : Word) : (s.withCommand v).acc = s.acc := rfl
@[simp] theorem State.withCommand_nbits (v : Word) : (s.withCommand v).nbits = s.nbits := rfl
@[simp] theorem State.withCommand_optr (v : Word) : (s.withCommand v).optr = s.optr := rfl
@[simp] theorem State.withCommand_count (v : Word) : (s.withCommand v).count = s.count := rfl
@[simp] theorem State.withCommand_stride (v : Word) : (s.withCommand v).stride = s.stride := rfl
@[simp] theorem State.withCommand_nsmp (v : Word) : (s.withCommand v).nsmp = s.nsmp := rfl
@[simp] theorem State.withCommand_ncolw (v : Word) : (s.withCommand v).ncolw = s.ncolw := rfl
@[simp] theorem State.withCommand_gptr (v : Word) : (s.withCommand v).gptr = s.gptr := rfl
@[simp] theorem State.withCommand_pix (v : Word) : (s.withCommand v).pix = s.pix := rfl
@[simp] theorem State.withCommand_smp (v : Word) : (s.withCommand v).smp = s.smp := rfl
@[simp] theorem State.withCommand_pal (v : Word) : (s.withCommand v).pal = s.pal := rfl
@[simp] theorem State.withCommand_idx (v : Word) : (s.withCommand v).idx = s.idx := rfl
@[simp] theorem State.withCommand_pfx (v : Word) : (s.withCommand v).pfx = s.pfx := rfl
@[simp] theorem State.withCommand_sfx (v : Word) : (s.withCommand v).sfx = s.sfx := rfl
@[simp] theorem State.withCommand_csb (v : Word) : (s.withCommand v).csb = s.csb := rfl
@[simp] theorem State.withCommand_gif (v : Word) : (s.withCommand v).gif = s.gif := rfl
@[simp] theorem State.withCommand_params (v : Word) : (s.withCommand v).params = s.params := rfl
@[simp] theorem State.withCommand_host (v : Word) : (s.withCommand v).host = moveWr .cmd v :: s.host := rfl
@[simp] theorem State.withCommand_replies (v : Word) : (s.withCommand v).replies = s.replies := rfl
@[simp] theorem State.withCommand_draws (v : Word) : (s.withCommand v).draws = s.draws := rfl

/-! ## After a PHASE value placed for the next step -/

@[simp] theorem State.withPhase_status (p : BitVec 5) : (s.withPhase p).status = { s.status with busy := true } := rfl
@[simp] theorem State.withPhase_ie (p : BitVec 5) : (s.withPhase p).ie = s.ie := rfl
@[simp] theorem State.withPhase_width (p : BitVec 5) : (s.withPhase p).width = s.width := rfl
@[simp] theorem State.withPhase_height (p : BitVec 5) : (s.withPhase p).height = s.height := rfl
@[simp] theorem State.withPhase_pixlen (p : BitVec 5) : (s.withPhase p).pixlen = s.pixlen := rfl
@[simp] theorem State.withPhase_len (p : BitVec 5) : (s.withPhase p).len = s.len := rfl
@[simp] theorem State.withPhase_mincs (p : BitVec 5) : (s.withPhase p).mincs = s.mincs := rfl
@[simp] theorem State.withPhase_csblen (p : BitVec 5) : (s.withPhase p).csblen = s.csblen := rfl
@[simp] theorem State.withPhase_giflen (p : BitVec 5) : (s.withPhase p).giflen = s.giflen := rfl
@[simp] theorem State.withPhase_ncol (p : BitVec 5) : (s.withPhase p).ncol = s.ncol := rfl
@[simp] theorem State.withPhase_phase (p : BitVec 5) : (s.withPhase p).phase = p := rfl
@[simp] theorem State.withPhase_chain (p : BitVec 5) : (s.withPhase p).chain = s.chain := rfl
@[simp] theorem State.withPhase_pos (p : BitVec 5) : (s.withPhase p).pos = s.pos := rfl
@[simp] theorem State.withPhase_w (p : BitVec 5) : (s.withPhase p).w = s.w := rfl
@[simp] theorem State.withPhase_k (p : BitVec 5) : (s.withPhase p).k = s.k := rfl
@[simp] theorem State.withPhase_next (p : BitVec 5) : (s.withPhase p).next = s.next := rfl
@[simp] theorem State.withPhase_cw (p : BitVec 5) : (s.withPhase p).cw = s.cw := rfl
@[simp] theorem State.withPhase_acc (p : BitVec 5) : (s.withPhase p).acc = s.acc := rfl
@[simp] theorem State.withPhase_nbits (p : BitVec 5) : (s.withPhase p).nbits = s.nbits := rfl
@[simp] theorem State.withPhase_optr (p : BitVec 5) : (s.withPhase p).optr = s.optr := rfl
@[simp] theorem State.withPhase_count (p : BitVec 5) : (s.withPhase p).count = s.count := rfl
@[simp] theorem State.withPhase_stride (p : BitVec 5) : (s.withPhase p).stride = s.stride := rfl
@[simp] theorem State.withPhase_nsmp (p : BitVec 5) : (s.withPhase p).nsmp = s.nsmp := rfl
@[simp] theorem State.withPhase_ncolw (p : BitVec 5) : (s.withPhase p).ncolw = s.ncolw := rfl
@[simp] theorem State.withPhase_gptr (p : BitVec 5) : (s.withPhase p).gptr = s.gptr := rfl
@[simp] theorem State.withPhase_pix (p : BitVec 5) : (s.withPhase p).pix = s.pix := rfl
@[simp] theorem State.withPhase_smp (p : BitVec 5) : (s.withPhase p).smp = s.smp := rfl
@[simp] theorem State.withPhase_pal (p : BitVec 5) : (s.withPhase p).pal = s.pal := rfl
@[simp] theorem State.withPhase_idx (p : BitVec 5) : (s.withPhase p).idx = s.idx := rfl
@[simp] theorem State.withPhase_pfx (p : BitVec 5) : (s.withPhase p).pfx = s.pfx := rfl
@[simp] theorem State.withPhase_sfx (p : BitVec 5) : (s.withPhase p).sfx = s.sfx := rfl
@[simp] theorem State.withPhase_csb (p : BitVec 5) : (s.withPhase p).csb = s.csb := rfl
@[simp] theorem State.withPhase_gif (p : BitVec 5) : (s.withPhase p).gif = s.gif := rfl
@[simp] theorem State.withPhase_params (p : BitVec 5) : (s.withPhase p).params = s.params := rfl
@[simp] theorem State.withPhase_host (p : BitVec 5) : (s.withPhase p).host = .pass :: s.host := rfl
@[simp] theorem State.withPhase_replies (p : BitVec 5) : (s.withPhase p).replies = s.replies := rfl
@[simp] theorem State.withPhase_draws (p : BitVec 5) : (s.withPhase p).draws = s.draws := rfl

/-! ## After the LZW state becoming unspecified (spec/60_exceptions.md R229) -/

@[simp] theorem State.forgetLzw_status : (s.forgetLzw).status = s.status := rfl
@[simp] theorem State.forgetLzw_ie : (s.forgetLzw).ie = s.ie := rfl
@[simp] theorem State.forgetLzw_width : (s.forgetLzw).width = s.width := rfl
@[simp] theorem State.forgetLzw_height : (s.forgetLzw).height = s.height := rfl
@[simp] theorem State.forgetLzw_pixlen : (s.forgetLzw).pixlen = s.pixlen := rfl
@[simp] theorem State.forgetLzw_len : (s.forgetLzw).len = s.len := rfl
@[simp] theorem State.forgetLzw_mincs : (s.forgetLzw).mincs = s.mincs := rfl
@[simp] theorem State.forgetLzw_csblen : (s.forgetLzw).csblen = s.csblen := rfl
@[simp] theorem State.forgetLzw_giflen : (s.forgetLzw).giflen = s.giflen := rfl
@[simp] theorem State.forgetLzw_ncol : (s.forgetLzw).ncol = s.ncol := rfl
@[simp] theorem State.forgetLzw_phase : (s.forgetLzw).phase = s.phase := rfl
@[simp] theorem State.forgetLzw_chain : (s.forgetLzw).chain = s.chain := rfl
@[simp] theorem State.forgetLzw_pos : (s.forgetLzw).pos = Config.drawnReg s.draws .pos := rfl
@[simp] theorem State.forgetLzw_w : (s.forgetLzw).w = (Config.drawnReg s.draws .w).extractLsb' 0 12 := rfl
@[simp] theorem State.forgetLzw_k : (s.forgetLzw).k = (Config.drawnReg s.draws .k).extractLsb' 0 8 := rfl
@[simp] theorem State.forgetLzw_next : (s.forgetLzw).next = (Config.drawnReg s.draws .next).extractLsb' 0 13 := rfl
@[simp] theorem State.forgetLzw_cw : (s.forgetLzw).cw = (Config.drawnReg s.draws .cw).extractLsb' 0 4 := rfl
@[simp] theorem State.forgetLzw_acc : (s.forgetLzw).acc = (Config.drawnReg s.draws .acc).extractLsb' 0 19 := rfl
@[simp] theorem State.forgetLzw_nbits : (s.forgetLzw).nbits = (Config.drawnReg s.draws .nbits).extractLsb' 0 5 := rfl
@[simp] theorem State.forgetLzw_optr : (s.forgetLzw).optr = Config.drawnReg s.draws .optr := rfl
@[simp] theorem State.forgetLzw_count : (s.forgetLzw).count = s.count := rfl
@[simp] theorem State.forgetLzw_stride : (s.forgetLzw).stride = s.stride := rfl
@[simp] theorem State.forgetLzw_nsmp : (s.forgetLzw).nsmp = s.nsmp := rfl
@[simp] theorem State.forgetLzw_ncolw : (s.forgetLzw).ncolw = s.ncolw := rfl
@[simp] theorem State.forgetLzw_gptr : (s.forgetLzw).gptr = s.gptr := rfl
@[simp] theorem State.forgetLzw_pix : (s.forgetLzw).pix = s.pix := rfl
@[simp] theorem State.forgetLzw_smp : (s.forgetLzw).smp = s.smp := rfl
@[simp] theorem State.forgetLzw_pal : (s.forgetLzw).pal = s.pal := rfl
@[simp] theorem State.forgetLzw_idx : (s.forgetLzw).idx = s.idx := rfl
@[simp] theorem State.forgetLzw_pfx : (s.forgetLzw).pfx = .unwritten s.draws := rfl
@[simp] theorem State.forgetLzw_sfx : (s.forgetLzw).sfx = .unwritten s.draws := rfl
@[simp] theorem State.forgetLzw_csb : (s.forgetLzw).csb = .unwritten s.draws := rfl
@[simp] theorem State.forgetLzw_gif : (s.forgetLzw).gif = s.gif := rfl
@[simp] theorem State.forgetLzw_params : (s.forgetLzw).params = s.params := rfl
@[simp] theorem State.forgetLzw_host : (s.forgetLzw).host = s.host := rfl
@[simp] theorem State.forgetLzw_replies : (s.forgetLzw).replies = s.replies := rfl
@[simp] theorem State.forgetLzw_draws : (s.forgetLzw).draws = s.draws + 1 := rfl

/-! ## After the tail of IDX becoming unspecified (spec/70_reset_and_hazards.md R256) -/

@[simp] theorem State.forgetIdxTail_status : s.forgetIdxTail.status = s.status := rfl
@[simp] theorem State.forgetIdxTail_ie : s.forgetIdxTail.ie = s.ie := rfl
@[simp] theorem State.forgetIdxTail_width : s.forgetIdxTail.width = s.width := rfl
@[simp] theorem State.forgetIdxTail_height : s.forgetIdxTail.height = s.height := rfl
@[simp] theorem State.forgetIdxTail_pixlen : s.forgetIdxTail.pixlen = s.pixlen := rfl
@[simp] theorem State.forgetIdxTail_len : s.forgetIdxTail.len = s.len := rfl
@[simp] theorem State.forgetIdxTail_mincs : s.forgetIdxTail.mincs = s.mincs := rfl
@[simp] theorem State.forgetIdxTail_csblen : s.forgetIdxTail.csblen = s.csblen := rfl
@[simp] theorem State.forgetIdxTail_giflen : s.forgetIdxTail.giflen = s.giflen := rfl
@[simp] theorem State.forgetIdxTail_ncol : s.forgetIdxTail.ncol = s.ncol := rfl
@[simp] theorem State.forgetIdxTail_phase : s.forgetIdxTail.phase = s.phase := rfl
@[simp] theorem State.forgetIdxTail_chain : s.forgetIdxTail.chain = s.chain := rfl
@[simp] theorem State.forgetIdxTail_pos : s.forgetIdxTail.pos = s.pos := rfl
@[simp] theorem State.forgetIdxTail_w : s.forgetIdxTail.w = s.w := rfl
@[simp] theorem State.forgetIdxTail_k : s.forgetIdxTail.k = s.k := rfl
@[simp] theorem State.forgetIdxTail_next : s.forgetIdxTail.next = s.next := rfl
@[simp] theorem State.forgetIdxTail_cw : s.forgetIdxTail.cw = s.cw := rfl
@[simp] theorem State.forgetIdxTail_acc : s.forgetIdxTail.acc = s.acc := rfl
@[simp] theorem State.forgetIdxTail_nbits : s.forgetIdxTail.nbits = s.nbits := rfl
@[simp] theorem State.forgetIdxTail_optr : s.forgetIdxTail.optr = s.optr := rfl
@[simp] theorem State.forgetIdxTail_count : s.forgetIdxTail.count = s.count := rfl
@[simp] theorem State.forgetIdxTail_stride : s.forgetIdxTail.stride = s.stride := rfl
@[simp] theorem State.forgetIdxTail_nsmp : s.forgetIdxTail.nsmp = s.nsmp := rfl
@[simp] theorem State.forgetIdxTail_ncolw : s.forgetIdxTail.ncolw = s.ncolw := rfl
@[simp] theorem State.forgetIdxTail_gptr : s.forgetIdxTail.gptr = s.gptr := rfl
@[simp] theorem State.forgetIdxTail_pix : s.forgetIdxTail.pix = s.pix := rfl
@[simp] theorem State.forgetIdxTail_smp : s.forgetIdxTail.smp = s.smp := rfl
@[simp] theorem State.forgetIdxTail_pal : s.forgetIdxTail.pal = s.pal := rfl
@[simp] theorem State.forgetIdxTail_idx : s.forgetIdxTail.idx = s.idx.forgetFrom .idx s.len.toNat s.draws := rfl
@[simp] theorem State.forgetIdxTail_pfx : s.forgetIdxTail.pfx = s.pfx := rfl
@[simp] theorem State.forgetIdxTail_sfx : s.forgetIdxTail.sfx = s.sfx := rfl
@[simp] theorem State.forgetIdxTail_csb : s.forgetIdxTail.csb = s.csb := rfl
@[simp] theorem State.forgetIdxTail_gif : s.forgetIdxTail.gif = s.gif := rfl
@[simp] theorem State.forgetIdxTail_params : s.forgetIdxTail.params = s.params := rfl
@[simp] theorem State.forgetIdxTail_host : s.forgetIdxTail.host = s.host := rfl
@[simp] theorem State.forgetIdxTail_replies : s.forgetIdxTail.replies = s.replies := rfl
@[simp] theorem State.forgetIdxTail_draws : s.forgetIdxTail.draws = s.draws + 1 := rfl

/-! ## After unit completion (spec/40_commands.md R121): only STATUS, CHAIN and PHASE change -/

@[simp] theorem State.complete_ie (u : UnitName) : (s.complete u).ie = s.ie := by
  unfold State.complete
  split <;> [rfl; (split <;> rfl)]
@[simp] theorem State.complete_width (u : UnitName) : (s.complete u).width = s.width := by
  unfold State.complete
  split <;> [rfl; (split <;> rfl)]
@[simp] theorem State.complete_height (u : UnitName) : (s.complete u).height = s.height := by
  unfold State.complete
  split <;> [rfl; (split <;> rfl)]
@[simp] theorem State.complete_pixlen (u : UnitName) : (s.complete u).pixlen = s.pixlen := by
  unfold State.complete
  split <;> [rfl; (split <;> rfl)]
@[simp] theorem State.complete_len (u : UnitName) : (s.complete u).len = s.len := by
  unfold State.complete
  split <;> [rfl; (split <;> rfl)]
@[simp] theorem State.complete_mincs (u : UnitName) : (s.complete u).mincs = s.mincs := by
  unfold State.complete
  split <;> [rfl; (split <;> rfl)]
@[simp] theorem State.complete_csblen (u : UnitName) : (s.complete u).csblen = s.csblen := by
  unfold State.complete
  split <;> [rfl; (split <;> rfl)]
@[simp] theorem State.complete_giflen (u : UnitName) : (s.complete u).giflen = s.giflen := by
  unfold State.complete
  split <;> [rfl; (split <;> rfl)]
@[simp] theorem State.complete_ncol (u : UnitName) : (s.complete u).ncol = s.ncol := by
  unfold State.complete
  split <;> [rfl; (split <;> rfl)]
@[simp] theorem State.complete_pos (u : UnitName) : (s.complete u).pos = s.pos := by
  unfold State.complete
  split <;> [rfl; (split <;> rfl)]
@[simp] theorem State.complete_w (u : UnitName) : (s.complete u).w = s.w := by
  unfold State.complete
  split <;> [rfl; (split <;> rfl)]
@[simp] theorem State.complete_k (u : UnitName) : (s.complete u).k = s.k := by
  unfold State.complete
  split <;> [rfl; (split <;> rfl)]
@[simp] theorem State.complete_next (u : UnitName) : (s.complete u).next = s.next := by
  unfold State.complete
  split <;> [rfl; (split <;> rfl)]
@[simp] theorem State.complete_cw (u : UnitName) : (s.complete u).cw = s.cw := by
  unfold State.complete
  split <;> [rfl; (split <;> rfl)]
@[simp] theorem State.complete_acc (u : UnitName) : (s.complete u).acc = s.acc := by
  unfold State.complete
  split <;> [rfl; (split <;> rfl)]
@[simp] theorem State.complete_nbits (u : UnitName) : (s.complete u).nbits = s.nbits := by
  unfold State.complete
  split <;> [rfl; (split <;> rfl)]
@[simp] theorem State.complete_optr (u : UnitName) : (s.complete u).optr = s.optr := by
  unfold State.complete
  split <;> [rfl; (split <;> rfl)]
@[simp] theorem State.complete_count (u : UnitName) : (s.complete u).count = s.count := by
  unfold State.complete
  split <;> [rfl; (split <;> rfl)]
@[simp] theorem State.complete_stride (u : UnitName) : (s.complete u).stride = s.stride := by
  unfold State.complete
  split <;> [rfl; (split <;> rfl)]
@[simp] theorem State.complete_nsmp (u : UnitName) : (s.complete u).nsmp = s.nsmp := by
  unfold State.complete
  split <;> [rfl; (split <;> rfl)]
@[simp] theorem State.complete_ncolw (u : UnitName) : (s.complete u).ncolw = s.ncolw := by
  unfold State.complete
  split <;> [rfl; (split <;> rfl)]
@[simp] theorem State.complete_gptr (u : UnitName) : (s.complete u).gptr = s.gptr := by
  unfold State.complete
  split <;> [rfl; (split <;> rfl)]
@[simp] theorem State.complete_pix (u : UnitName) : (s.complete u).pix = s.pix := by
  unfold State.complete
  split <;> [rfl; (split <;> rfl)]
@[simp] theorem State.complete_smp (u : UnitName) : (s.complete u).smp = s.smp := by
  unfold State.complete
  split <;> [rfl; (split <;> rfl)]
@[simp] theorem State.complete_pal (u : UnitName) : (s.complete u).pal = s.pal := by
  unfold State.complete
  split <;> [rfl; (split <;> rfl)]
@[simp] theorem State.complete_idx (u : UnitName) : (s.complete u).idx = s.idx := by
  unfold State.complete
  split <;> [rfl; (split <;> rfl)]
@[simp] theorem State.complete_pfx (u : UnitName) : (s.complete u).pfx = s.pfx := by
  unfold State.complete
  split <;> [rfl; (split <;> rfl)]
@[simp] theorem State.complete_sfx (u : UnitName) : (s.complete u).sfx = s.sfx := by
  unfold State.complete
  split <;> [rfl; (split <;> rfl)]
@[simp] theorem State.complete_csb (u : UnitName) : (s.complete u).csb = s.csb := by
  unfold State.complete
  split <;> [rfl; (split <;> rfl)]
@[simp] theorem State.complete_gif (u : UnitName) : (s.complete u).gif = s.gif := by
  unfold State.complete
  split <;> [rfl; (split <;> rfl)]
@[simp] theorem State.complete_params (u : UnitName) : (s.complete u).params = s.params := by
  unfold State.complete
  split <;> [rfl; (split <;> rfl)]
@[simp] theorem State.complete_host (u : UnitName) : (s.complete u).host = s.host := by
  unfold State.complete
  split <;> [rfl; (split <;> rfl)]
@[simp] theorem State.complete_replies (u : UnitName) : (s.complete u).replies = s.replies := by
  unfold State.complete
  split <;> [rfl; (split <;> rfl)]
@[simp] theorem State.complete_draws (u : UnitName) : (s.complete u).draws = s.draws := by
  unfold State.complete
  split <;> [rfl; (split <;> rfl)]

end Sys2Proof.Machine
end

