-- ==== Sys2Proof/Laws/Ops.lean ====
section
/-! SUPPORT. One lemma for each shared operation that says everything it can do; later proofs cite these and do not unfold. -/

namespace Sys2Proof.Machine

/-! ## Counters -/

/-- A 32-bit counter that is not at its end counts up by one. -/
theorem toNat_succ (v : BitVec 32) (h : v.toNat + 1 < 2 ^ 32) : (v + 1).toNat = v.toNat + 1 := by bv_omega

/-- NBITS goes down by eight. -/
theorem toNat_sub_eight (v : BitVec 5) (h : 8 ≤ v.toNat) : (v - 8).toNat = v.toNat - 8 := by bv_omega

/-! ## Outcomes -/

theorem accepted_idle {s t : State} (h : s.status.busy = false) : accepted s t = .next t := by simp [accepted, h]

theorem accepted_busy {s t : State} (h : s.status.busy = true) : accepted s t = .next s := by simp [accepted, h]

theorem accepted_next {s t u : State} (h : accepted s t = .next u) :
    (s.status.busy = true ∧ u = s) ∨ (s.status.busy = false ∧ u = t) := by
  cases hb : s.status.busy <;> simp [accepted, hb] at h
  · exact .inr ⟨rfl, h.symm⟩
  · exact .inl ⟨rfl, h.symm⟩

theorem ifCells_next {p : Prop} [Decidable p] {sp : Space} {t u : State} (h : ifCells p sp t = .next u) :
    p ∧ u = t := by
  unfold ifCells at h
  split at h
  · rename_i hp
    exact ⟨hp, by cases h; rfl⟩
  · cases h

theorem ifCells_of {p : Prop} [Decidable p] (hp : p) (sp : Space) (t : State) : ifCells p sp t = .next t := if_pos hp

/-- What a step of the LZW unit can end in. -/
theorem lzwOutcome_cases (s : State) (r : Except Stop State) :
    (∃ t, r = .ok t ∧ lzwOutcome s r = .next t) ∨
    (∃ e, r = .error (.raise e) ∧ lzwOutcome s r = .next (s.forgetLzw.errorEntry e)) ∨
    (∃ f, r = .error (.fault f) ∧ lzwOutcome s r = .fault f) := by
  match r with
  | .ok t => exact .inl ⟨t, rfl, rfl⟩
  | .error (.raise e) => exact .inr (.inl ⟨e, rfl, rfl⟩)
  | .error (.fault f) => exact .inr (.inr ⟨f, rfl, rfl⟩)

/-! ## Unit completion -/

/-- Unit completion: the next unit of a chain, or the end of the run (spec/40_commands.md R121). -/
theorem State.complete_cases (s : State) (u : UnitName) :
    (s.chain = true ∧ u = .qnt ∧ s.complete u = { s with status := s.status.chainedTo .lzw, phase := phLCheck }) ∨
    (s.chain = true ∧ u = .lzw ∧ s.complete u = { s with status := s.status.chainedTo .frm, phase := phFCheck }) ∨
    ((s.chain = false ∨ u = .frm) ∧
      s.complete u = { s with status := s.status.completed, chain := false, phase := phIdle }) := by
  unfold State.complete
  split
  · rename_i h
    exact .inl ⟨h.1, h.2, rfl⟩
  · rename_i h1
    split
    · rename_i h
      exact .inr (.inl ⟨h.1, h.2, rfl⟩)
    · rename_i h2
      refine .inr (.inr ⟨?_, rfl⟩)
      cases hc : s.chain
      · exact .inl rfl
      · cases u
        · exact absurd ⟨hc, rfl⟩ h1
        · exact .inr rfl
        · exact absurd ⟨hc, rfl⟩ h2

/-! ## PutG -/

theorem State.putGs_eq (s : State) (bs : List Byte) :
    s.putGs bs = { s with gif := (s.putGs bs).gif, gptr := (s.putGs bs).gptr } := by
  induction bs generalizing s with
  | nil => rfl
  | cons b bs ih =>
    have := ih (s.putG b)
    rw [State.putGs, this]
    rfl

/-- GPTR after a list of bytes. -/
theorem State.putGs_gptr (s : State) (bs : List Byte) (h : s.gptr.toNat + bs.length < 2 ^ 32) :
    (s.putGs bs).gptr.toNat = s.gptr.toNat + bs.length := by
  induction bs generalizing s with
  | nil => rfl
  | cons b bs ih =>
    simp only [List.length_cons] at h
    have e : (s.putG b).gptr.toNat = s.gptr.toNat + 1 := toNat_succ _ (by omega)
    rw [State.putGs, ih _ (by omega), e, List.length_cons]
    omega

/-- GIF after a list of bytes: the bytes from GPTR on, every other cell as before. -/
theorem State.putGs_gif_read (f : Nat → Nat → Byte) (s : State) (bs : List Byte) (a : Nat)
    (h : s.gptr.toNat + bs.length < 2 ^ 32) :
    (s.putGs bs).gif.read f a =
      if hb : s.gptr.toNat ≤ a ∧ a < s.gptr.toNat + bs.length then bs[a - s.gptr.toNat]'(by omega)
      else s.gif.read f a := by
  induction bs generalizing s with
  | nil =>
    have : ¬(s.gptr.toNat ≤ a ∧ a < s.gptr.toNat + ([] : List Byte).length) := by simp
    rw [dif_neg this]
    rfl
  | cons b bs ih =>
    simp only [List.length_cons] at h
    have e : (s.putG b).gptr.toNat = s.gptr.toNat + 1 := toNat_succ _ (by omega)
    rw [State.putGs, ih _ (by omega)]
    by_cases ha : a = s.gptr.toNat
    · subst ha
      rw [dif_neg (by omega), dif_pos (by simp)]
      simp
    · by_cases hb : s.gptr.toNat + 1 ≤ a ∧ a < s.gptr.toNat + 1 + bs.length
      · rw [dif_pos (by omega), dif_pos (by simp only [List.length_cons]; omega)]
        have e2 : a - s.gptr.toNat = (a - (s.putG b).gptr.toNat) + 1 := by omega
        simp only [e2, List.getElem_cons_succ]
      · rw [dif_neg (by omega), dif_neg (by simp only [List.length_cons]; omega)]
        simp [Memory.read_put_ne _ _ _ _ _ ha]

theorem State.putGs_gif_wf {s : State} (h : s.gif.wf) (bs : List Byte) : (s.putGs bs).gif.wf := by
  induction bs generalizing s with
  | nil => exact h
  | cons b bs ih => exact ih (Memory.wf_put h _ _)

theorem State.putGs_gif_within {s : State} {n : Nat} (h : s.gif.within n) (bs : List Byte)
    (hn : s.gptr.toNat + bs.length ≤ n) (hw : n < 2 ^ 32) : (s.putGs bs).gif.within n := by
  induction bs generalizing s with
  | nil => exact h
  | cons b bs ih =>
    simp only [List.length_cons] at hn
    have e : (s.putG b).gptr.toNat = s.gptr.toNat + 1 := toNat_succ _ (by omega)
    exact ih (Memory.within_put h (by omega) b) (by omega)

/-! ## PutByte and EmitCode -/

/-- PutByte with room: one byte at OPTR (spec/43_lzw.md R184). -/
theorem putByte_room (b : Byte) (s : State) (h : s.optr.toNat < s.params.csbCap) :
    putByte b s = .ok { s with csb := s.csb.put s.optr.toNat b, optr := s.optr + 1 } := by
  unfold putByte
  rw [if_neg (by omega), if_neg (by omega)]

/-- PutByte without room: E_RESOURCE (spec/43_lzw.md R184). -/
theorem putByte_full (b : Byte) (s : State) (h : s.optr.toNat = s.params.csbCap) :
    putByte b s = .error (.raise .resource) := if_pos h

/-- What the loop of EmitCode leaves, when it has room: NBITS mod 8 bits, and the whole bytes of ACC from OPTR on, the low one
first. -/
structure Drained (s t : State) : Prop where
  frame : t = { s with csb := t.csb, optr := t.optr, acc := t.acc, nbits := t.nbits }
  nbits : t.nbits.toNat = s.nbits.toNat % 8
  acc : t.acc.toNat = s.acc.toNat / 2 ^ (8 * (s.nbits.toNat / 8))
  optr : t.optr.toNat = s.optr.toNat + s.nbits.toNat / 8
  csb : ∀ f a, t.csb.read f a =
    if s.optr.toNat ≤ a ∧ a < s.optr.toNat + s.nbits.toNat / 8 then
      BitVec.ofNat 8 (s.acc.toNat / 2 ^ (8 * (a - s.optr.toNat)))
    else s.csb.read f a
  wf : s.csb.wf → t.csb.wf
  within : s.csb.within s.params.csbCap → t.csb.within s.params.csbCap

theorem drainAcc_stop (p : Nat) (s : State) (h : s.nbits.toNat < 8) : drainAcc p s = .ok s := by
  cases p with
  | zero => rfl
  | succ p => simp [drainAcc, h]

theorem drained_refl (s : State) (h : s.nbits.toNat < 8) : Drained s s where
  frame := rfl
  nbits := by omega
  acc := by simp [Nat.div_eq_of_lt h]
  optr := by omega
  csb f a := by rw [if_neg (by omega)]
  wf := id
  within := id

/-- The loop of EmitCode (spec/43_lzw.md R183): with enough passes it either empties ACC of whole bytes or, when CSB has no
room for them, raises E_RESOURCE. -/
theorem drainAcc_spec (p : Nat) (s : State) (hp : s.nbits.toNat < 8 * (p + 1)) (hcap : s.params.csbCap < 2 ^ 32)
    (ho : s.optr.toNat ≤ s.params.csbCap) :
    (s.optr.toNat + s.nbits.toNat / 8 ≤ s.params.csbCap ∧ ∃ t, drainAcc p s = .ok t ∧ Drained s t) ∨
    (s.params.csbCap < s.optr.toNat + s.nbits.toNat / 8 ∧ drainAcc p s = .error (.raise .resource)) := by
  induction p generalizing s with
  | zero =>
    have h : s.nbits.toNat < 8 := by omega
    exact .inl ⟨by omega, s, rfl, drained_refl s h⟩
  | succ p ih =>
    by_cases h : s.nbits.toNat < 8
    · exact .inl ⟨by omega, s, drainAcc_stop _ s h, drained_refl s h⟩
    · by_cases hroom : s.optr.toNat < s.params.csbCap
      · have hstep : drainAcc (p + 1) s =
            drainAcc p { s with
              csb := s.csb.put s.optr.toNat (s.acc.extractLsb' 0 8)
              optr := s.optr + 1
              acc := s.acc >>> 8
              nbits := s.nbits - 8 } := by
          simp only [drainAcc, if_neg h, putByte_room _ s hroom]
        rw [hstep]
        generalize hu : ({ s with
              csb := s.csb.put s.optr.toNat (s.acc.extractLsb' 0 8)
              optr := s.optr + 1
              acc := s.acc >>> 8
              nbits := s.nbits - 8 } : State) = u
        have hun : u.nbits.toNat = s.nbits.toNat - 8 := by
          subst hu
          exact toNat_sub_eight _ (by omega)
        have huo : u.optr.toNat = s.optr.toNat + 1 := by
          subst hu
          exact toNat_succ _ (by omega)
        have hua : u.acc.toNat = s.acc.toNat / 2 ^ 8 := by
          subst hu
          simp [BitVec.toNat_ushiftRight, Nat.shiftRight_eq_div_pow]
        have hup : u.params = s.params := by subst hu; rfl
        have hdiv : s.nbits.toNat / 8 = (s.nbits.toNat - 8) / 8 + 1 := by omega
        rcases ih u (by omega) (by rw [hup]; exact hcap) (by rw [hup]; omega) with ⟨hfit, t, ht, hd⟩ | ⟨hfit, ht⟩
        · refine .inl ⟨by rw [hun, huo, hup] at hfit; omega, t, ht, ?_⟩
          refine ⟨?_, ?_, ?_, ?_, ?_, ?_, ?_⟩
          · have := hd.frame
            rw [this]
            subst hu
            rfl
          · rw [hd.nbits, hun]
            omega
          · rw [hd.acc, hua, hun, Nat.div_div_eq_div_mul, ← Nat.pow_add, hdiv]
            congr 2
            omega
          · rw [hd.optr, huo, hun]
            omega
          · intro f a
            rw [hd.csb, huo, hun, hua]
            by_cases ha : a = s.optr.toNat
            · subst ha
              rw [if_neg (by omega), if_pos (by omega)]
              subst hu
              simp only [Memory.read_put_same]
              apply BitVec.eq_of_toNat_eq
              simp [BitVec.extractLsb'_toNat]
            · by_cases hin : s.optr.toNat + 1 ≤ a ∧ a < s.optr.toNat + 1 + (s.nbits.toNat - 8) / 8
              · rw [if_pos hin, if_pos (by omega), Nat.div_div_eq_div_mul, ← Nat.pow_add]
                congr 3
                omega
              · rw [if_neg hin, if_neg (by omega)]
                subst hu
                exact Memory.read_put_ne _ _ _ _ _ ha
          · intro hwf
            refine hd.wf ?_
            subst hu
            exact Memory.wf_put hwf _ _
          · intro hin
            have := hd.within
            rw [hup] at this
            refine this ?_
            subst hu
            exact Memory.within_put hin hroom _
        · refine .inr ⟨by rw [hun, huo, hup] at hfit; omega, ht⟩
      · have hfull : s.optr.toNat = s.params.csbCap := by omega
        refine .inr ⟨by omega, ?_⟩
        simp only [drainAcc, if_neg h, putByte_full _ s hfull]

/-- What EmitCode leaves when it has room (spec/43_lzw.md R183): V = ACC + c × 2^NBITS is the buffered bit string with the code
put on top; its whole bytes go to CSB from OPTR on, the low one first, and the rest stays in ACC. -/
structure Emitted (c n : Nat) (s t : State) : Prop where
  frame : t = { s with csb := t.csb, optr := t.optr, acc := t.acc, nbits := t.nbits }
  nbits : t.nbits.toNat = (s.nbits.toNat + n) % 8
  acc : t.acc.toNat = (s.acc.toNat + c * 2 ^ s.nbits.toNat) / 2 ^ (8 * ((s.nbits.toNat + n) / 8))
  acc_lt : t.acc.toNat < 2 ^ t.nbits.toNat
  optr : t.optr.toNat = s.optr.toNat + (s.nbits.toNat + n) / 8
  optr_le : t.optr.toNat ≤ s.params.csbCap
  csb : ∀ f a, t.csb.read f a =
    if s.optr.toNat ≤ a ∧ a < s.optr.toNat + (s.nbits.toNat + n) / 8 then
      BitVec.ofNat 8 ((s.acc.toNat + c * 2 ^ s.nbits.toNat) / 2 ^ (8 * (a - s.optr.toNat)))
    else s.csb.read f a
  wf : s.csb.wf → t.csb.wf
  within : s.csb.within s.params.csbCap → t.csb.within s.params.csbCap

/-- EmitCode, for a buffer of at most 7 bits and a code that fits its width (spec/43_lzw.md R183): it packs the code, or raises
E_RESOURCE when CSB has no room for the bytes that fill up. -/
theorem emitCode_spec (c n : Nat) (s : State) (hb : s.nbits.toNat ≤ 7) (ha : s.acc.toNat < 2 ^ s.nbits.toNat)
    (hn : n ≤ 12) (hc : c < 2 ^ n) (hcap : s.params.csbCap < 2 ^ 32) (ho : s.optr.toNat ≤ s.params.csbCap) :
    (s.optr.toNat + (s.nbits.toNat + n) / 8 ≤ s.params.csbCap ∧ ∃ t, emitCode c n s = .ok t ∧ Emitted c n s t) ∨
    (s.params.csbCap < s.optr.toNat + (s.nbits.toNat + n) / 8 ∧ emitCode c n s = .error (.raise .resource)) := by
  unfold emitCode
  generalize hu : ({ s with
      acc := s.acc ||| (BitVec.ofNat 19 c <<< s.nbits.toNat)
      nbits := s.nbits + BitVec.ofNat 5 n } : State) = u
  have hun : u.nbits.toNat = s.nbits.toNat + n := by
    subst hu
    simp only [BitVec.toNat_add, BitVec.toNat_ofNat]
    omega
  have hbig : s.acc.toNat + c * 2 ^ s.nbits.toNat < 2 ^ (s.nbits.toNat + n) := by
    calc s.acc.toNat + c * 2 ^ s.nbits.toNat < 2 ^ s.nbits.toNat + c * 2 ^ s.nbits.toNat := by omega
      _ = (c + 1) * 2 ^ s.nbits.toNat := by ring
      _ ≤ 2 ^ n * 2 ^ s.nbits.toNat := Nat.mul_le_mul_right _ hc
      _ = 2 ^ (s.nbits.toNat + n) := by rw [← Nat.pow_add, Nat.add_comm]
  have hle : 2 ^ (s.nbits.toNat + n) ≤ 2 ^ 19 := Nat.pow_le_pow_right (by omega) (by omega)
  have hua : u.acc.toNat = s.acc.toNat + c * 2 ^ s.nbits.toNat := by
    subst hu
    simp only [BitVec.toNat_or, BitVec.toNat_shiftLeft, BitVec.toNat_ofNat]
    have hcc : c % 2 ^ 19 = c := Nat.mod_eq_of_lt (Nat.lt_of_lt_of_le hc (Nat.pow_le_pow_right (by omega) (by omega)))
    rw [hcc, Nat.shiftLeft_eq, Nat.mod_eq_of_lt (by omega), Nat.or_comm]
    rw [Nat.mul_comm c, ← Nat.two_pow_add_eq_or_of_lt ha, Nat.add_comm]
  have huo : u.optr = s.optr := by subst hu; rfl
  have hup : u.params = s.params := by subst hu; rfl
  have huc : u.csb = s.csb := by subst hu; rfl
  rcases drainAcc_spec 3 u (by omega) (by rw [hup]; exact hcap) (by rw [hup, huo]; exact ho) with
    ⟨hfit, t, ht, hd⟩ | ⟨hfit, ht⟩
  · rw [hun, huo, hup] at hfit
    refine .inl ⟨hfit, t, ht, ?_⟩
    have hacc : t.acc.toNat = (s.acc.toNat + c * 2 ^ s.nbits.toNat) / 2 ^ (8 * ((s.nbits.toNat + n) / 8)) := by
      rw [hd.acc, hua, hun]
    refine ⟨?_, ?_, hacc, ?_, ?_, ?_, ?_, ?_, ?_⟩
    · rw [hd.frame]
      subst hu
      rfl
    · rw [hd.nbits, hun]
    · rw [hacc, hd.nbits, hun]
      rw [Nat.div_lt_iff_lt_mul (by positivity), ← Nat.pow_add]
      have : (s.nbits.toNat + n) % 8 + 8 * ((s.nbits.toNat + n) / 8) = s.nbits.toNat + n := by omega
      rwa [this]
    · rw [hd.optr, huo, hun]
    · rw [hd.optr, huo, hun]
      exact hfit
    · intro f a
      rw [hd.csb, huo, hun, hua, huc]
    · intro h
      exact hd.wf (by rwa [huc])
    · intro h
      have := hd.within
      rw [hup, huc] at this
      exact this h
  · rw [hun, huo, hup] at hfit
    exact .inr ⟨hfit, ht⟩

/-! ## Sym -/

/-- Sym(i) (spec/43_lzw.md R185): K, E_SYMBOL, or, past IDX, the model's fault. -/
theorem readSymbol_cases (i : Nat) (s : State) :
    (i < s.params.maxPix ∧ (s.idxAt i).toNat < s.clr ∧ readSymbol i s = .ok { s with k := s.idxAt i }) ∨
    (i < s.params.maxPix ∧ s.clr ≤ (s.idxAt i).toNat ∧ readSymbol i s = .error (.raise .symbol)) ∨
    (s.params.maxPix ≤ i ∧ readSymbol i s = .error (.fault (.noSuchCell .idx))) := by
  unfold readSymbol
  by_cases h : i < s.params.maxPix
  · rw [if_pos h]
    by_cases hk : s.clr ≤ (s.idxAt i).toNat
    · have hm : s.mincs.toNat < 8 := by
        by_contra hc
        have h8 : 2 ^ 8 ≤ 2 ^ s.mincs.toNat := Nat.pow_le_pow_right (by omega) (by omega)
        have : s.clr = 2 ^ s.mincs.toNat := rfl
        have := (s.idxAt i).isLt
        omega
      exact .inr (.inl ⟨h, hk, by rw [if_pos ⟨hm, hk⟩]⟩)
    · exact .inl ⟨h, by omega, by rw [if_neg (fun hc => hk hc.2)]⟩
  · exact .inr (.inr ⟨by omega, by rw [if_neg h]⟩)

end Sys2Proof.Machine
end

