-- ==== Sys2Proof/Laws/PerInstr.lean ====
section
/-! SUPPORT. Statements made instruction by instruction: decoding an encoded well-formed instruction gives it back. -/

namespace Sys2Proof.Laws.RoundTrip

/-- Decoding what the encoder gives for a well-formed instruction is that instruction. -/
def Statement (i : Instr) : Prop := i.wellFormed = true → decode (encode i) = .ok i

theorem nop : Statement .nop := fun _ => by decide
theorem quant : Statement .quant := fun _ => by decide
theorem frame : Statement .frame := fun _ => by decide
theorem lzw : Statement .lzw := fun _ => by decide
theorem build : Statement .build := fun _ => by decide
theorem clr : Statement .clr := fun _ => by decide
theorem srst : Statement .srst := fun _ => by decide

/-- A reserved word is none of the seven assigned ones, and its two fields are all of its bits. -/
theorem reserved (zero : BitVec 24) (op : BitVec 8) : Statement (.reserved zero op) := by
  intro h
  have hn := reservedWord_toNat zero op
  have hz : (zero ++ op).extractLsb' 8 24 = zero := by
    apply BitVec.eq_of_toNat_eq
    rw [BitVec.extractLsb'_toNat, hn, Nat.shiftRight_eq_div_pow]
    omega
  have ho : (zero ++ op).extractLsb' 0 8 = op := by
    apply BitVec.eq_of_toNat_eq
    rw [BitVec.extractLsb'_toNat, hn, Nat.shiftRight_eq_div_pow]
    omega
  have key : ∀ v : Word, (v.extractLsb' 8 24 == 0 && assignedOps.contains (v.extractLsb' 0 8)) = true →
      zero ++ op ≠ v := by
    intro v hv e
    rw [← e, hz, ho, Bool.and_eq_true, beq_iff_eq] at hv
    simp only [Instr.wellFormed, reservedWord, hv.1, hv.2] at h
    exact absurd h (by decide)
  simp only [encode, decode, decodeCommand_eq, hz, ho]
  rw [if_neg (key _ (by decide)), if_neg (key _ (by decide)), if_neg (key _ (by decide)), if_neg (key _ (by decide)),
    if_neg (key _ (by decide)), if_neg (key _ (by decide)), if_neg (key _ (by decide))]

theorem qCheck : Statement .qCheck := fun _ => by decide
theorem qSample : Statement .qSample := fun _ => by decide
theorem qCut : Statement .qCut := fun _ => by decide
theorem qPad : Statement .qPad := fun _ => by decide
theorem qMap : Statement .qMap := fun _ => by decide
theorem fCheck : Statement .fCheck := fun _ => by decide
theorem fHead : Statement .fHead := fun _ => by decide
theorem fGct : Statement .fGct := fun _ => by decide
theorem fGce : Statement .fGce := fun _ => by decide
theorem fImg : Statement .fImg := fun _ => by decide
theorem fData : Statement .fData := fun _ => by decide
theorem fTrail : Statement .fTrail := fun _ => by decide
theorem lCheck : Statement .lCheck := fun _ => by decide
theorem lInit : Statement .lInit := fun _ => by decide
theorem lFirst : Statement .lFirst := fun _ => by decide
theorem lLoopExtend : Statement .lLoopExtend := fun _ => by decide
theorem lLoopInsert : Statement .lLoopInsert := fun _ => by decide
theorem lLoopReset : Statement .lLoopReset := fun _ => by decide
theorem lLoopEnd : Statement .lLoopEnd := fun _ => by decide
theorem lFinish : Statement .lFinish := fun _ => by decide

end Sys2Proof.Laws.RoundTrip
end

