-- ==== Sys2Proof/Laws/Steps.lean ====
section
/-! SUPPORT. One inversion lemma for each step of a unit: if it answers a next state, which one. -/

namespace Sys2Proof.Machine

/-! ## QNT -/

/-- The state of Q_CHECK after COUNT is written (spec/41_quantizer.md R131). -/
abbrev State.counted (s : State) : State := { s with count := BitVec.ofNat 32 s.pixelCount }

theorem execQCheck_cases (s : State) :
    (s.pixelCount = 0 ∧ execQCheck s = .next (s.counted.errorEntry .empty)) ∨
    (s.pixelCount ≠ 0 ∧ s.params.maxPix < s.pixelCount ∧ execQCheck s = .next (s.counted.errorEntry .resource)) ∨
    (s.pixelCount ≠ 0 ∧ s.pixelCount ≤ s.params.maxPix ∧ s.pixlen.toNat ≠ 4 * s.pixelCount ∧
      execQCheck s = .next (s.counted.errorEntry .shape)) ∨
    (s.pixelCount ≠ 0 ∧ s.pixelCount ≤ s.params.maxPix ∧ s.pixlen.toNat = 4 * s.pixelCount ∧
      execQCheck s = .next { s.counted with phase := phQSample }) := by
  unfold execQCheck
  by_cases h0 : s.pixelCount = 0
  · exact .inl ⟨h0, if_pos h0⟩
  · by_cases h1 : s.params.maxPix < s.pixelCount
    · exact .inr (.inl ⟨h0, h1, by rw [if_neg h0, if_pos h1]⟩)
    · by_cases h2 : s.pixlen.toNat = 4 * s.pixelCount
      · exact .inr (.inr (.inr ⟨h0, by omega, h2, by rw [if_neg h0, if_neg h1, if_neg (not_not.2 h2)]⟩))
      · exact .inr (.inr (.inl ⟨h0, by omega, h2, by rw [if_neg h0, if_neg h1, if_pos h2]⟩))

/-- Q_MAP's state once the pixel is mapped and POS counted up (spec/41_quantizer.md R144). -/
abbrev State.mapped (s : State) : State :=
  { s with
    idx := s.idx.put s.pos.toNat (BitVec.ofNat 8 (s.nearest (s.col s.pos.toNat)))
    pos := s.pos + 1 }

theorem execQMap_next {s t : State} (h : execQMap s = .next t) :
    s.pos.toNat < s.params.maxPix ∧
      ((s.pos + 1 = s.count ∧ t = s.mapped.finishQnt) ∨ (s.pos + 1 ≠ s.count ∧ t = s.mapped)) := by
  obtain ⟨hp, rfl⟩ := ifCells_next h
  refine ⟨hp, ?_⟩
  by_cases hc : s.pos + 1 = s.count
  · exact .inl ⟨hc, if_pos hc⟩
  · exact .inr ⟨hc, if_neg hc⟩

/-- QNT's end under BUILD: the run goes on into LZW, and IDX stays as QNT wrote it (spec/40_commands.md R121). -/
theorem finishQnt_chained {s : State} (h : s.chain = true) :
    s.finishQnt = { s with len := s.count, ncol := s.ncolw, status := s.status.chainedTo .lzw, phase := phLCheck } := by
  unfold State.finishQnt State.complete
  rw [if_pos h]
  exact if_pos ⟨h, rfl⟩

/-- QNT's end alone: the run has succeeded (spec/40_commands.md R121, spec/70_reset_and_hazards.md R256). -/
theorem finishQnt_alone {s : State} (h : s.chain = false) :
    s.finishQnt =
      { s with
        len := s.count
        ncol := s.ncolw
        status := s.status.completed
        chain := false
        phase := phIdle
        idx := s.idx.forgetFrom .idx s.count.toNat s.draws
        draws := s.draws + 1 } := by
  simp [State.finishQnt, State.complete, State.forgetIdxTail, h]

/-! ## FRM -/

/-- FRM's end in a FRAME run (spec/40_commands.md R121). -/
theorem finishFrm_alone {s : State} (h : s.chain = false) :
    s.finishFrm =
      { s with
        giflen := s.gptr
        gif := s.gif.forgetFrom .gif s.gptr.toNat s.draws
        status := s.status.completed
        chain := false
        phase := phIdle
        draws := s.draws + 1 } := by
  simp [State.finishFrm, State.complete, h]

/-- FRM's end in a BUILD run: the whole run has succeeded (spec/40_commands.md R121, spec/70_reset_and_hazards.md R256). -/
theorem finishFrm_chained {s : State} (h : s.chain = true) :
    s.finishFrm =
      { s with
        giflen := s.gptr
        gif := s.gif.forgetFrom .gif s.gptr.toNat s.draws
        idx := s.idx.forgetFrom .idx s.len.toNat (s.draws + 1)
        status := s.status.completed
        chain := false
        phase := phIdle
        draws := s.draws + 1 + 1 } := by
  simp [State.finishFrm, State.complete, State.forgetIdxTail, h]

theorem execFCheck_cases (s : State) :
    (s.mincs ≠ gifMincs ∧ execFCheck s = .next (s.errorEntry .config)) ∨
    (s.mincs = gifMincs ∧ (s.width = 0 ∨ s.height = 0 ∨ s.csblen = 0) ∧ execFCheck s = .next (s.errorEntry .empty)) ∨
    (s.mincs = gifMincs ∧ ¬(s.width = 0 ∨ s.height = 0 ∨ s.csblen = 0) ∧
      s.params.gifCap < gifLength s.csblen.toNat ∧ execFCheck s = .next (s.errorEntry .resource)) ∨
    (s.mincs = gifMincs ∧ ¬(s.width = 0 ∨ s.height = 0 ∨ s.csblen = 0) ∧
      gifLength s.csblen.toNat ≤ s.params.gifCap ∧ execFCheck s = .next { s with gptr := 0, phase := phFHead }) := by
  unfold execFCheck
  by_cases h0 : s.mincs = gifMincs
  · by_cases h1 : s.width = 0 ∨ s.height = 0 ∨ s.csblen = 0
    · exact .inr (.inl ⟨h0, h1, by rw [if_neg (by simpa using h0), if_pos h1]⟩)
    · by_cases h2 : s.params.gifCap < gifLength s.csblen.toNat
      · exact .inr (.inr (.inl ⟨h0, h1, h2, by rw [if_neg (by simpa using h0), if_neg h1, if_pos h2]⟩))
      · exact .inr (.inr (.inr ⟨h0, h1, by omega, by rw [if_neg (by simpa using h0), if_neg h1, if_neg h2]⟩))
  · exact .inl ⟨h0, by rw [if_pos h0]⟩

theorem frameStep_next {s t : State} {bytes : List Byte} {p : BitVec 5} (h : s.frameStep bytes p = .next t) :
    s.gptr.toNat + bytes.length ≤ s.params.gifCap ∧ t = { s.putGs bytes with phase := p } := ifCells_next h

theorem execFData_next {s t : State} (h : execFData s = .next t) :
    s.pos.toNat + s.subBlockLen ≤ s.params.csbCap ∧ s.gptr.toNat + s.subBlock.length ≤ s.params.gifCap ∧
      t = { { s with pos := s.pos + BitVec.ofNat 32 s.subBlockLen }.putGs s.subBlock with
        phase := if s.pos + BitVec.ofNat 32 s.subBlockLen = s.csblen then phFTrail else s.phase } := by
  unfold execFData at h
  split at h
  · rename_i hc
    exact ⟨hc, frameStep_next h⟩
  · cases h

/-! ## LZW -/

theorem execLCheck_cases (s : State) :
    ((s.mincs.toNat < 2 ∨ 8 < s.mincs.toNat) ∧ execLCheck s = .next (s.errorEntry .config)) ∨
    (¬(s.mincs.toNat < 2 ∨ 8 < s.mincs.toNat) ∧ s.len = 0 ∧ execLCheck s = .next (s.errorEntry .empty)) ∨
    (¬(s.mincs.toNat < 2 ∨ 8 < s.mincs.toNat) ∧ s.len ≠ 0 ∧ s.params.maxPix < s.len.toNat ∧
      execLCheck s = .next (s.errorEntry .resource)) ∨
    (¬(s.mincs.toNat < 2 ∨ 8 < s.mincs.toNat) ∧ s.len ≠ 0 ∧ s.len.toNat ≤ s.params.maxPix ∧
      execLCheck s = .next { s with pos := 0, optr := 0, acc := 0, nbits := 0, phase := phLInit }) := by
  unfold execLCheck
  by_cases h0 : s.mincs.toNat < 2 ∨ 8 < s.mincs.toNat
  · exact .inl ⟨h0, if_pos h0⟩
  · by_cases h1 : s.len = 0
    · exact .inr (.inl ⟨h0, h1, by rw [if_neg h0, if_pos h1]⟩)
    · by_cases h2 : s.params.maxPix < s.len.toNat
      · exact .inr (.inr (.inl ⟨h0, h1, h2, by rw [if_neg h0, if_neg h1, if_pos h2]⟩))
      · exact .inr (.inr (.inr ⟨h0, h1, by omega, by rw [if_neg h0, if_neg h1, if_neg h2]⟩))

/-- The next states of the LZW steps that may raise: the step's own, or error entry. -/
theorem lzwOutcome_next {s t : State} {r : Except Stop State} (h : lzwOutcome s r = .next t) :
    r = .ok t ∨ ∃ e, r = .error (.raise e) ∧ t = s.forgetLzw.errorEntry e := by
  rcases lzwOutcome_cases s r with ⟨u, hr, ho⟩ | ⟨e, hr, ho⟩ | ⟨f, hr, ho⟩ <;> rw [ho] at h
  · cases h
    exact .inl hr
  · cases h
    exact .inr ⟨e, hr, rfl⟩
  · cases h

theorem inCase_next {s t : State} {c : LoopCase} {o : Out} (h : s.inCase c o = .next t) :
    s.loopCase = c ∧ o = .next t := by
  unfold State.inCase at h
  split at h
  · exact ⟨‹_›, h⟩
  · cases h

/-- L_LOOP's case END is the one selected exactly when POS = LEN (spec/43_lzw.md R189). -/
theorem loopCase_fin (s : State) : s.loopCase = .fin ↔ s.pos = s.len := by
  unfold State.loopCase
  constructor
  · intro h
    split at h
    · assumption
    · split at h
      · cases h
      · split at h <;> cases h
  · intro h
    rw [if_pos h]

/-- L_LOOP's case EXTEND (spec/43_lzw.md R189). -/
theorem loopCase_extend (s : State) :
    s.loopCase = .extend ↔ s.pos ≠ s.len ∧ ∃ c, s.lookup s.w (s.idxAt s.pos.toNat) = some c := by
  unfold State.loopCase
  by_cases h : s.pos = s.len
  · simp [h]
  · rw [if_neg h]
    cases hl : s.lookup s.w (s.idxAt s.pos.toNat) with
    | none => by_cases hn : s.next.toNat < maxEnt <;> simp [hn]
    | some c => simp [h]

/-- L_LOOP's case INSERT (spec/43_lzw.md R189). -/
theorem loopCase_insert (s : State) :
    s.loopCase = .insert ↔
      s.pos ≠ s.len ∧ s.lookup s.w (s.idxAt s.pos.toNat) = none ∧ s.next.toNat < maxEnt := by
  unfold State.loopCase
  by_cases h : s.pos = s.len
  · simp [h]
  · rw [if_neg h]
    cases hl : s.lookup s.w (s.idxAt s.pos.toNat) with
    | none => by_cases hn : s.next.toNat < maxEnt <;> simp [hn, h]
    | some c => simp

/-- L_LOOP's case RESET (spec/43_lzw.md R189). -/
theorem loopCase_reset (s : State) :
    s.loopCase = .reset ↔
      s.pos ≠ s.len ∧ s.lookup s.w (s.idxAt s.pos.toNat) = none ∧ maxEnt ≤ s.next.toNat := by
  unfold State.loopCase
  by_cases h : s.pos = s.len
  · simp [h]
  · rw [if_neg h]
    cases hl : s.lookup s.w (s.idxAt s.pos.toNat) with
    | none =>
      by_cases hn : s.next.toNat < maxEnt
      · simp [hn]
      · simp [hn, h, Nat.le_of_not_lt hn]
    | some c => simp

/-- The state of an L_LOOP step once its byte is consumed (spec/43_lzw.md R189). -/
abbrev State.consumed (s : State) : State := { s with k := s.idxAt s.pos.toNat, pos := s.pos + 1 }

theorem consumeSymbol_cases (s : State) :
    (s.pos.toNat < s.params.maxPix ∧ (s.idxAt s.pos.toNat).toNat < s.clr ∧ consumeSymbol s = .ok s.consumed) ∨
    (s.pos.toNat < s.params.maxPix ∧ s.clr ≤ (s.idxAt s.pos.toNat).toNat ∧
      consumeSymbol s = .error (.raise .symbol)) ∨
    (s.params.maxPix ≤ s.pos.toNat ∧ consumeSymbol s = .error (.fault (.noSuchCell .idx))) := by
  unfold consumeSymbol
  rcases readSymbol_cases s.pos.toNat s with ⟨h1, h2, h3⟩ | ⟨h1, h2, h3⟩ | ⟨h1, h3⟩
  · exact .inl ⟨h1, h2, by rw [h3]⟩
  · exact .inr (.inl ⟨h1, h2, by rw [h3]⟩)
  · exact .inr (.inr ⟨h1, by rw [h3]⟩)

/-- A code Lookup answers is an entry of the table with that prefix and that byte (spec/43_lzw.md R182). -/
theorem lookup_some {s : State} {w : BitVec 12} {k : Byte} {c : Nat} (h : s.lookup w k = some c) :
    s.first ≤ c ∧ c < s.next.toNat ∧ s.pfxAt c = w ∧ s.sfxAt c = k := by
  unfold State.lookup at h
  have h1 := List.find?_some h
  have h2 := List.mem_of_find?_eq_some h
  rw [List.mem_range'_1] at h2
  simp only [Bool.and_eq_true, beq_iff_eq] at h1
  exact ⟨h2.1, by omega, h1.1, h1.2⟩

/-- Lookup answers none exactly when no entry matches (spec/43_lzw.md R182). -/
theorem lookup_none {s : State} {w : BitVec 12} {k : Byte} (h : s.lookup w k = none) (c : Nat) (h1 : s.first ≤ c)
    (h2 : c < s.next.toNat) : ¬(s.pfxAt c = w ∧ s.sfxAt c = k) := by
  unfold State.lookup at h
  have := List.find?_eq_none.1 h c (by rw [List.mem_range'_1]; omega)
  simpa using this

end Sys2Proof.Machine
end

