-- ==== Sys2Proof/Laws/Units.lean ====
section
/-! SUPPORT. Small lemmas about the units, in the terms of Sys2Proof.Safety: what an emission, a read symbol, the seeded
dictionary and the final flush leave. -/

namespace Sys2Proof.Machine

theorem paletteBytes_length (l : List Colour) : (paletteBytes l).length = 3 * l.length := by
  induction l with
  | nil => rfl
  | cons c l ih =>
    simp [paletteBytes] at *
    omega

/-! ## Emission -/

theorem Emitted.emits {c n : Nat} {s t : State} (h : Emitted c n s t) : s.Emits t c n := by
  refine ⟨h.nbits, h.acc, h.optr, ?_, ?_⟩
  · intro i hi
    have := h.csb (drawnByte .csb) (s.optr.toNat + i)
    rw [if_pos (by omega)] at this
    simp only [Nat.add_sub_cancel_left] at this
    exact this
  · intro a ha
    have := h.csb (drawnByte .csb) a
    rw [if_neg (by omega)] at this
    exact this

/-- The registers an emission leaves. -/
theorem Emitted.fields {c n : Nat} {s t : State} (h : Emitted c n s t) :
    t.pfx = s.pfx ∧ t.sfx = s.sfx ∧ t.next = s.next ∧ t.mincs = s.mincs ∧ t.w = s.w ∧ t.k = s.k ∧ t.pos = s.pos ∧
      t.len = s.len ∧ t.params = s.params ∧ t.cw = s.cw ∧ t.phase = s.phase ∧ t.idx = s.idx := by
  have := h.frame
  refine ⟨?_, ?_, ?_, ?_, ?_, ?_, ?_, ?_, ?_, ?_, ?_, ?_⟩ <;> rw [this]

/-- The flush either completes, writing at most one byte, or raises. -/
theorem flushAcc_spec (s : State) (ho : s.optr.toNat ≤ s.params.csbCap) (hcap : s.params.csbCap < 2 ^ 32) :
    (∃ t, flushAcc s = .ok t ∧ t = { s with csb := t.csb, optr := t.optr, acc := t.acc, nbits := t.nbits } ∧
      s.optr.toNat ≤ t.optr.toNat ∧ t.optr.toNat ≤ s.params.csbCap ∧ (s.csb.wf → t.csb.wf) ∧
      (s.csb.within s.params.csbCap → t.csb.within s.params.csbCap)) ∨
    flushAcc s = .error (.raise .resource) := by
  unfold flushAcc
  split
  · by_cases hr : s.optr.toNat < s.params.csbCap
    · rw [putByte_room _ _ hr]
      have : (s.optr + 1).toNat = s.optr.toNat + 1 := toNat_succ _ (by omega)
      refine .inl ⟨_, rfl, rfl, ?_, ?_, fun h => Memory.wf_put h _ _, fun h => Memory.within_put h hr _⟩ <;>
        simp only [this] <;> omega
    · rw [putByte_full _ _ (by omega)]
      exact .inr rfl
  · exact .inl ⟨s, rfl, rfl, Nat.le_refl _, ho, id, id⟩

/-! ## Symbols and the dictionary -/

theorem consumeSymbol_ok {s : State} (h1 : s.pos.toNat < s.params.maxPix)
    (h2 : (s.idxAt s.pos.toNat).toNat < 2 ^ s.mincs.toNat) : consumeSymbol s = .ok s.consumed := by
  rcases consumeSymbol_cases s with ⟨_, _, h3⟩ | ⟨_, h3, _⟩ | ⟨h3, _⟩
  · exact h3
  · have : s.clr = 2 ^ s.mincs.toNat := rfl
    omega
  · omega

theorem consumeSymbol_raises {s : State} (h1 : s.pos.toNat < s.params.maxPix)
    (h2 : 2 ^ s.mincs.toNat ≤ (s.idxAt s.pos.toNat).toNat) : consumeSymbol s = .error (.raise .symbol) := by
  have : s.clr = 2 ^ s.mincs.toNat := rfl
  rcases consumeSymbol_cases s with ⟨_, h3, _⟩ | ⟨_, _, h3⟩ | ⟨h3, _⟩
  · omega
  · exact h3
  · omega

theorem lookup_eq_none_of {s : State} {w : BitVec 12} {k : Byte} (h : ∀ c, ¬s.IsEntry w k c) : s.lookup w k = none := by
  cases hl : s.lookup w k with
  | none => rfl
  | some c => exact absurd (lookup_some hl) (h c)

/-- The error entry of an LZW step is the end `LzwFails` describes. -/
theorem lzwFails_errorEntry (s : State) (e : ErrName) : s.LzwFails (s.forgetLzw.errorEntry e) e.code := rfl

theorem two_pow_mincs {m : Nat} (h2 : 2 ≤ m) (h8 : m ≤ 8) : 4 ≤ 2 ^ m ∧ 2 ^ m ≤ 256 ∧ 2 ^ (m + 1) = 2 * 2 ^ m := by
  refine ⟨?_, ?_, by rw [pow_succ]; omega⟩
  · exact (Nat.pow_le_pow_right (by omega) h2).trans' (by norm_num)
  · exact (Nat.pow_le_pow_right (by omega) h8).trans (by norm_num)

/-- The seeded state (spec/43_lzw.md R181, R187). -/
theorem seed_spec (s : State) (h2 : 2 ≤ s.mincs.toNat) (h8 : s.mincs.toNat ≤ 8) :
    s.seed.next.toNat = s.first ∧ s.seed.cw.toNat = s.mincs.toNat + 1 ∧ s.first ≤ 258 ∧ s.clr < 2 ^ s.seed.cw.toNat ∧
      s.seed.WidthOk ∧ s.seed.DictOk := by
  obtain ⟨a, b, c⟩ := two_pow_mincs h2 h8
  have hcw : s.seed.cw.toNat = s.mincs.toNat + 1 := by
    simp only [State.seed]
    bv_omega
  have hf : s.first = 2 ^ s.mincs.toNat + 2 := rfl
  have hn : s.seed.next.toNat = s.first := by
    simp [State.seed]
    omega
  have hsf : s.seed.first = s.first := rfl
  refine ⟨hn, hcw, by omega, ?_, ⟨by omega, ?_, ?_⟩, ⟨?_, ?_, ?_, ?_⟩⟩
  · rw [hcw, c]
    unfold State.clr
    omega
  · rw [hn, hcw, hf]
    simp
  · rw [hn, hcw, hf]
    omega
  all_goals
    intro c
    omega

/-- A dictionary of at most 4096 codes has a code width of at most 12 (spec/10_state.md R51 (3)). -/
theorem cw_le_of_width {s : State} (hn : s.next.toNat ≤ maxEnt) (hw : s.WidthOk) : s.cw.toNat ≤ 12 := by
  by_contra hc
  have h1 : 2 ^ 12 ≤ 2 ^ (s.cw.toNat - 1) := Nat.pow_le_pow_right (by omega) (by omega)
  have := hw.2.1
  simp only [maxEnt] at hn
  omega

/-- The dictionary's order depends on PFX, SFX, NEXT and MINCS only. -/
theorem DictOk_congr {s t : State} (h : s.DictOk) (hp : t.pfx = s.pfx) (hs : t.sfx = s.sfx) (hn : t.next = s.next)
    (hm : t.mincs = s.mincs) : t.DictOk := by
  have e1 : t.first = s.first := by simp [State.first, State.clr, hm]
  have e2 : t.clr = s.clr := by simp [State.clr, hm]
  have e3 : t.eoi = s.eoi := by simp [State.eoi, State.clr, hm]
  have e4 : ∀ c, t.pfxAt c = s.pfxAt c := by
    intro c
    simp [State.pfxAt, hp]
  have e5 : ∀ c, t.sfxAt c = s.sfxAt c := by
    intro c
    simp [State.sfxAt, hs]
  constructor <;> simp only [e1, e2, e3, e4, e5, hn]
  · exact h.1
  · exact h.2
  · exact h.3
  · exact h.4

end Sys2Proof.Machine
end

