-- ==== Sys2Proof/Tests/Slice0.lean ====
section
/-! SUPPORT. Tests: ill-formed terms, the encodings written out bit by bit, the examples of the rules, and, for every
obligation with hypotheses, a state that meets them. Expected values are the spec's, named in each comment. -/

namespace Sys2Proof.Tests

open Sys2Proof.Machine

/-- The next state of an outcome, if it is one. -/
def after : Out → Option State
  | .next t => some t
  | .fault _ => none
  | .refused _ => none

/-! ## WellFormed -/

theorem test_reserved_assigned_words_ill_formed :
    ([0x00, 0x01, 0x02, 0x03, 0x04, 0x0E, 0x0F].all (fun op => !(Instr.reserved 0 op).wellFormed)) = true := by decide
theorem test_reserved_op_well_formed : (Instr.reserved 0 0x05).wellFormed = true := by decide
theorem test_reserved_zero_field_well_formed : (Instr.reserved 1 0x00).wellFormed = true := by decide

/-! ## Words of spec/30_encoding.md R80 to R83 and spec/10_state.md R34, bits 31:8 and 7:0, or the 5 bits of PHASE -/

theorem test_decode_nop : decode (.cmd (0b000000000000000000000000#24 ++ 0b00000000#8)) = .ok .nop := by decide
theorem test_decode_quant : decode (.cmd (0b000000000000000000000000#24 ++ 0b00000001#8)) = .ok .quant := by decide
theorem test_decode_frame : decode (.cmd (0b000000000000000000000000#24 ++ 0b00000010#8)) = .ok .frame := by decide
theorem test_decode_lzw : decode (.cmd (0b000000000000000000000000#24 ++ 0b00000011#8)) = .ok .lzw := by decide
theorem test_decode_build : decode (.cmd (0b000000000000000000000000#24 ++ 0b00000100#8)) = .ok .build := by decide
theorem test_decode_clr : decode (.cmd (0b000000000000000000000000#24 ++ 0b00001110#8)) = .ok .clr := by decide
theorem test_decode_srst : decode (.cmd (0b000000000000000000000000#24 ++ 0b00001111#8)) = .ok .srst := by decide
theorem test_decode_reserved_op :
    decode (.cmd (0b000000000000000000000000#24 ++ 0b00000101#8)) = .ok (.reserved 0 5) := by decide
theorem test_decode_reserved_zero :
    decode (.cmd (0b100000000000000000000000#24 ++ 0b00000001#8)) = .ok (.reserved 0x800000 1) := by decide
theorem test_decode_qCheck : decode (.step 0b00001 .fin) = .ok .qCheck := by decide
theorem test_decode_qSample : decode (.step 0b00010 .fin) = .ok .qSample := by decide
theorem test_decode_qCut : decode (.step 0b00011 .fin) = .ok .qCut := by decide
theorem test_decode_qPad : decode (.step 0b00100 .fin) = .ok .qPad := by decide
theorem test_decode_qMap : decode (.step 0b00101 .fin) = .ok .qMap := by decide
theorem test_decode_fCheck : decode (.step 0b01000 .fin) = .ok .fCheck := by decide
theorem test_decode_fHead : decode (.step 0b01001 .fin) = .ok .fHead := by decide
theorem test_decode_fGct : decode (.step 0b01010 .fin) = .ok .fGct := by decide
theorem test_decode_fGce : decode (.step 0b01011 .fin) = .ok .fGce := by decide
theorem test_decode_fImg : decode (.step 0b01100 .fin) = .ok .fImg := by decide
theorem test_decode_fData : decode (.step 0b01101 .fin) = .ok .fData := by decide
theorem test_decode_fTrail : decode (.step 0b01110 .fin) = .ok .fTrail := by decide
theorem test_decode_lCheck : decode (.step 0b10000 .fin) = .ok .lCheck := by decide
theorem test_decode_lInit : decode (.step 0b10001 .fin) = .ok .lInit := by decide
theorem test_decode_lFirst : decode (.step 0b10010 .fin) = .ok .lFirst := by decide
theorem test_decode_lLoopExtend : decode (.step 0b10011 .extend) = .ok .lLoopExtend := by decide
theorem test_decode_lLoopInsert : decode (.step 0b10011 .insert) = .ok .lLoopInsert := by decide
theorem test_decode_lLoopReset : decode (.step 0b10011 .reset) = .ok .lLoopReset := by decide
theorem test_decode_lLoopEnd : decode (.step 0b10011 .fin) = .ok .lLoopEnd := by decide
theorem test_decode_lFinish : decode (.step 0b10100 .fin) = .ok .lFinish := by decide
theorem test_decode_idle_rejected : decode (.step 0b00000 .fin) = .error .idle := by decide
theorem test_decode_phase6_rejected : decode (.step 0b00110 .fin) = .error (.noSuchPhase 6) := by decide
theorem test_decode_phase31_rejected : decode (.step 0b11111 .fin) = .error (.noSuchPhase 31) := by decide
theorem test_tableWord_cmd : decodeTableWord 32 0x0F = some .srst := by decide
theorem test_tableWord_step : decodeTableWord 8 0x10 = some .lCheck := by decide
theorem test_fetch_cmd : (after (step (State.reset.withFetchWord 32 3))).map (·.phase) = some 16 := by decide
theorem test_fetch_step : (after (step (State.reset.withFetchWord 8 4))).map (·.phase) = some 5 := by decide

/-! ## States -/

/-- A machine with small memories: 4 pixels, 16 bytes of CSB, 900 of GIF. -/
def small : State := { State.reset with params := ⟨4, 16, 900⟩ }
/-- A run of a unit in a phase. -/
def running (u : BitVec 2) (p : BitVec 5) : State := { small with status := ⟨true, false, false, 0, u⟩, phase := p }
/-- After a successful LZW run: STATUS = 0x302 (spec/40_commands.md R111, R118). -/
def lzwDone : State := { small with status := ⟨false, true, false, 0, 3⟩, csblen := 11 }
/-- L_LOOP at the first step, one byte K to read, MINCS = 8, empty table. -/
def looping (k : Byte) : State :=
  { running 3 19 with
    len := 2
    pos := 1
    next := 258
    cw := 9
    acc := 1
    nbits := 1
    optr := 1
    idx := small.idx.put 1 k }
/-- The table with the one entry 258 = (0, 0). -/
def oneEntry : State := { looping 0 with next := 259, pfx := small.pfx.put 258 0, sfx := small.sfx.put 258 0 }
/-- A full table whose entries all have the prefix 0; the pending prefix is 220, as in the example of spec/43_lzw.md R192. -/
def fullTable : State :=
  { looping 55 with
    w := 220
    next := 4096
    cw := 12
    acc := 0
    nbits := 0
    optr := 0
    pfx := ⟨(List.range' 258 3838).map (fun c => (c, 0)), 0⟩ }

/-! ## Commands: the examples of spec/40_commands.md -/

theorem test_nop_keeps_status : (after (exec .nop lzwDone)).map (·.readOffset 4) = some 0x302 := by decide
theorem test_quant_launches : (after (exec .quant lzwDone)).map (·.readOffset 4) = some 0x101 := by decide
theorem test_frame_launches : (after (exec .frame lzwDone)).map (·.readOffset 4) = some 0x201 := by decide
theorem test_lzw_zeroes_csblen : (after (exec .lzw lzwDone)).map (·.csblen) = some 0 := by decide
theorem test_build_sets_mincs : (after (exec .build { small with mincs := 4 })).map (·.mincs) = some 8 := by decide
theorem test_clr_status : (after (exec .clr lzwDone)).map (·.readOffset 4) = some 0 := by decide
theorem test_clr_keeps_csblen : (after (exec .clr lzwDone)).map (·.csblen) = some 11 := by decide
theorem test_srst_mincs : (after (exec .srst { small with mincs := 4 })).map (·.mincs) = some 8 := by decide
theorem test_reserved_status : (after (exec (.reserved 0 5) small)).map (·.readOffset 4) = some 0x14 := by decide
theorem test_srst_ignored_busy : (after (exec .srst (running 1 1))).map (·.phase) = some 1 := by decide

/-! ## QNT: the examples of spec/41_quantizer.md -/

theorem test_qCheck_shape :
    (after (exec .qCheck { running 1 1 with width := 2, height := 2, pixlen := 15 })).map (·.status) =
      some ⟨false, false, true, 2, 1⟩ := by decide
theorem test_qCheck_empty_first :
    (after (exec .qCheck { running 1 1 with width := 0, height := 2, pixlen := 15 })).map (·.status) =
      some ⟨false, false, true, 3, 1⟩ := by decide
theorem test_qSample_stride :
    (after (exec .qSample { State.reset with count := 149999 })).map (fun t => (t.stride, t.nsmp)) =
      some (2, 75000) := by decide
theorem test_qSample_unsampled :
    (after (exec .qSample { State.reset with count := 100000 })).map (fun t => (t.stride, t.nsmp)) =
      some (1, 100000) := by decide
theorem test_widest_ties : widest [⟨0, 0, 0⟩, ⟨0, 10, 10⟩, ⟨0, 10, 0⟩, ⟨0, 0, 10⟩] = .g := by decide
theorem test_sorted_stable :
    sortedBy [⟨255, 0, 0⟩, ⟨255, 0, 0⟩, ⟨0, 0, 255⟩, ⟨0, 255, 0⟩] .r =
      [⟨0, 0, 255⟩, ⟨0, 255, 0⟩, ⟨255, 0, 0⟩, ⟨255, 0, 0⟩] := by decide +kernel
theorem test_mean_half_up : mean [⟨0, 1, 255⟩, ⟨1, 1, 254⟩] = ⟨1, 1, 255⟩ := by decide
theorem test_mean_down : mean [⟨0, 1, 0⟩, ⟨0, 1, 0⟩, ⟨1, 2, 0⟩] = ⟨0, 1, 0⟩ := by decide
theorem test_cut_one_colour : cut 8 [⟨1, 2, 3⟩] = List.replicate 8 black ++ [⟨1, 2, 3⟩] := by decide +kernel
theorem test_qCut_ncolw :
    (after (exec .qCut { running 1 3 with nsmp := 1, smp := small.smp.put 0 ⟨9, 9, 9⟩ })).map (·.ncolw) = some 9 := by
  decide +kernel
theorem test_qPad_black :
    (after (exec .qPad { running 1 4 with ncolw := 255, pal := small.pal.put 767 9 })).map (fun t => (t.palAt 767, t.phase)) =
      some (0, 5) := by decide
theorem test_nearest_lowest : nearestIn [⟨0, 0, 0⟩, ⟨255, 0, 0⟩, ⟨255, 0, 0⟩] ⟨254, 0, 0⟩ = 1 := by decide
theorem test_qMap_completes :
    (after (exec .qMap { running 1 5 with count := 1, ncolw := 9 })).map (fun t => (t.status, t.len, t.ncol, t.phase)) =
      some (⟨false, true, false, 0, 1⟩, 1, 9, 0) := by decide
theorem test_qMap_chains :
    (after (exec .qMap { running 1 5 with count := 1, ncolw := 9, chain := true })).map (fun t => (t.status.unit, t.phase)) =
      some (3, 16) := by decide

/-! ## FRM: the examples of spec/42_gif_framer.md -/

theorem test_fCheck_config :
    (after (exec .fCheck { running 2 8 with mincs := 4 })).map (·.status) = some ⟨false, false, true, 5, 2⟩ := by decide
theorem test_fHead_dimensions :
    (after (exec .fHead { running 2 9 with width := 400, height := 300 })).map
      (fun t => [t.gifAt 0, t.gifAt 6, t.gifAt 7, t.gifAt 8, t.gifAt 9, t.gifAt 10]) =
        some [0x47, 0x90, 0x01, 0x2C, 0x01, 0xF7] := by decide
theorem test_fGct_copies :
    (after (exec .fGct { running 2 10 with gptr := 13, pal := small.pal.put 0 7 })).map (fun t => (t.gptr, t.phase)) =
      some (781, 11) := by decide +kernel
theorem test_fGce_bytes :
    (after (exec .fGce { running 2 11 with gptr := 781 })).map (fun t => (t.gifAt 782, t.gifAt 784, t.gptr)) =
      some (0xF9, 0x00, 789) := by decide
theorem test_fImg_code_size :
    (after (exec .fImg { running 2 12 with gptr := 789, width := 0x1234 })).map
      (fun t => [t.gifAt 789, t.gifAt 794, t.gifAt 795, t.gifAt 799]) = some [0x2C, 0x34, 0x12, 0x08] := by decide
theorem test_fData_length_byte :
    (after (exec .fData { running 2 13 with gptr := 800, csblen := 7, csb := small.csb.put 6 0xAB })).map
      (fun t => (t.gifAt 800, t.gifAt 807, t.phase)) = some (7, 0xAB, 14) := by decide
theorem test_fTrail_ends :
    (after (exec .fTrail { running 2 14 with gptr := 805 })).map (fun t => (t.gifAt 805, t.gifAt 806, t.giflen, t.status)) =
      some (0x00, 0x3B, 807, ⟨false, true, false, 0, 2⟩) := by decide

/-! ## LZW: the examples of spec/43_lzw.md -/

theorem test_lCheck_config :
    (after (exec .lCheck { running 3 16 with mincs := 9 })).map (·.status) = some ⟨false, false, true, 5, 3⟩ := by decide
theorem test_lInit_clear :
    (after (exec .lInit (running 3 17))).map (fun t => (t.next, t.cw, t.csbAt 0, t.acc, t.nbits)) =
      some (258, 9, 0x00, 1, 1) := by decide
theorem test_lFirst_byte :
    (after (exec .lFirst { running 3 18 with idx := small.idx.put 0 5 })).map (fun t => (t.w, t.pos)) = some (5, 1) := by
  decide
theorem test_lFirst_symbol :
    (after (exec .lFirst { running 3 18 with mincs := 2, idx := small.idx.put 0 5 })).map (·.status) =
      some ⟨false, false, true, 6, 3⟩ := by decide
theorem test_extend : (after (exec .lLoopExtend oneEntry)).map (·.w) = some 258 := by decide
theorem test_insert :
    (after (exec .lLoopInsert (looping 1))).map
      (fun t => (t.pfxAt 258, t.sfxAt 258, t.next, t.cw, t.w)) = some (0, 1, 259, 9, 1) := by decide
theorem test_insert_widens :
    ({ looping 1 with next := 512 }.insertEntry.cw, { looping 1 with next := 511 }.insertEntry.cw) = (10, 9) := by decide
theorem test_end : (after (exec .lLoopEnd { looping 1 with pos := 2 })).map (·.phase) = some 20 := by decide
theorem test_lFinish_single :
    (after (exec .lFinish { looping 0 with w := 5, phase := 20 })).map
      (fun t => [t.csbAt 1, t.csbAt 2, t.csbAt 3]) = some [0x0B, 0x04, 0x04] := by decide
theorem test_lFinish_csblen :
    (after (exec .lFinish { looping 0 with w := 5, phase := 20 })).map (·.csblen) = some 4 := by decide

/-- What a list of consecutive entries with one value holds. -/
theorem cellsGet_range' {α : Type} (v : α) (k n a : Nat) (h1 : a ≤ k) (h2 : k < a + n) :
    cellsGet ((List.range' a n).map (fun c => (c, v))) k = some v := by
  induction n generalizing a with
  | zero => omega
  | succ n ih =>
    rw [List.range'_succ, List.map_cons]
    by_cases h : a = k
    · simp [cellsGet, h]
    · simp only [cellsGet, if_neg h]
      exact ih (a + 1) (by omega) (by omega)

theorem fullTable_pfxAt (c : Nat) (h1 : 258 ≤ c) (h2 : c < 4096) : fullTable.pfxAt c = 0 := by
  have := cellsGet_range' (0 : BitVec 12) c 3838 258 h1 (by omega)
  unfold State.pfxAt Memory.read Memory.get?
  rw [show fullTable.pfx.cells = (List.range' 258 3838).map (fun c => (c, 0)) from rfl, this]
  rfl

theorem fullTable_no_entry (c : Nat) : ¬fullTable.IsEntry fullTable.w (fullTable.idxAt fullTable.pos.toNat) c := by
  rintro ⟨h1, h2, h3, -⟩
  have h2' : c < 4096 := h2
  have h1' : 258 ≤ c := h1
  rw [fullTable_pfxAt c h1' h2'] at h3
  exact absurd h3 (by decide)

theorem fullTable_loopCase : fullTable.loopCase = .reset := by
  refine (loopCase_reset _).2 ⟨by decide, ?_, by decide⟩
  cases h : fullTable.lookup fullTable.w (fullTable.idxAt fullTable.pos.toNat) with
  | none => rfl
  | some c => exact absurd (lookup_some h) (fullTable_no_entry c)

/-- spec/43_lzw.md R192: W = 220, K = 55 with a full table emits 220 and 256 on 12 bits, 0xDC 0x00 0x10 in bytes. -/
theorem test_reset :
    (after (exec .lLoopReset fullTable)).map (fun t => (t.next, t.cw, t.w, [t.csbAt 0, t.csbAt 1, t.csbAt 2])) =
      some (258, 9, 55, [0xDC, 0x00, 0x10]) := by
  show (after (execLLoopReset fullTable)).map _ = _
  unfold execLLoopReset State.inCase
  rw [if_pos fullTable_loopCase]
  decide +kernel

/-- spec/20_memory.md R69: under BUILD the last Q_MAP writes IDX[0] only, and a byte the host put at IDX[2] stays. -/
theorem test_build_keeps_idx_beyond_len :
    (after (exec .qMap { running 1 5 with chain := true, count := 1, idx := small.idx.put 2 9 })).map
      (fun t => (t.phase, t.len, t.idxAt 2)) = some (16, 1, 9) := by decide +kernel

/-! ## The host port -/

theorem test_host_wait_then_reads :
    (after (run 3 { small with host := scriptMoves [.wr .len 7, .wait, .rd .len] })).map (·.replies) = some [7] := by decide
theorem test_host_load_and_dump :
    (after (run 4 { small with host := scriptMoves [.load .idx 1 [8, 9], .dump .idx 1 2] })).map (·.replies) =
      some [9, 8] := by decide
theorem test_host_write_ignored_busy :
    (after (step { running 1 1 with host := [moveWr .ie 3] })).map (·.ie) = some ⟨false, false⟩ := by decide
theorem test_rst_stops_run :
    (after (step { running 1 1 with host := [.rst] })).map (fun t => (t.status.busy, t.phase, t.mincs)) =
      some (false, 0, 8) := by decide

/-! ## Witnesses: for each obligation with hypotheses, a state that meets them, and one for each of its clauses -/

theorem witness_DecodeEncodedInstruction : (Instr.reserved 0xFFFFFF 0xFF).wellFormed = true := by decide
theorem witness_EncodeDecodedCode :
    decodeStep 19 .insert = .ok .lLoopInsert ∧ decodeStep 20 .fin = .ok .lFinish := by decide
theorem witness_ReservedWords :
    small.status.busy = false ∧ (running 1 1).status.busy = true ∧ decodeCommand 0x05 = .reserved 0 0x05 ∧
      decodeCommand 0x0D = .reserved 0 0x0D ∧ decodeCommand 0x10 = .reserved 0 0x10 ∧
      decodeCommand 0xFF = .reserved 0 0xFF ∧ decodeCommand 0x100 = .reserved 1 0 ∧
      decodeCommand 0xFFFFFF0F = .reserved 0xFFFFFF 0x0F := by decide
theorem witness_ReservedWords_only_nop (s : State) (h : s.status.busy = false) : exec (decodeCommand 0) s = .next s :=
  accepted_idle h
theorem witness_StepRunsSelectedPhase :
    decodeStep (running 1 1).phase (running 1 1).loopCase = .ok .qCheck ∧ (running 1 1).host = [] ∧
      { running 1 1 with host := [.pass] }.host = [.pass] ∧ { running 1 1 with host := [.wait] }.host = [.wait] ∧
      (running 1 1).status.busy = true ∧ small.phase = 0 ∧ small.host = [] ∧ small.status.busy = false ∧
      { small with host := [.wait] }.host = [.wait] ∧
      decodeStep (running 1 6).phase (running 1 6).loopCase = .error (.noSuchPhase 6) ∧ (running 1 6).host = [] := by
  decide
theorem witness_RegisterBank : (0x28 < 0x29 ∨ 0x29 % 4 ≠ 0) ∧ (0x28 < 0x2C ∨ 0x2C % 4 ≠ 0) ∧ (0x28 < 1 ∨ 1 % 4 ≠ 0) := by
  decide
theorem witness_OnlyInterfaceAccesses_legal :
    (HostAccess.memRead .pix 15 1).legal small.params ∧ (HostAccess.memRead .pal 767 1).legal small.params ∧
      (HostAccess.memRead .idx 3 1).legal small.params ∧ (HostAccess.memRead .csb 15 1).legal small.params ∧
      (HostAccess.memRead .gif 899 1).legal small.params ∧ (HostAccess.memRead .reg 0x2C 4).legal small.params ∧
      (HostAccess.memWrite .csb 15 1 0).legal small.params := by decide
theorem witness_OnlyInterfaceAccesses_illegal :
    (HostAccess.memRead .pix 16 1).legal small.params = false ∧ (HostAccess.memRead .pal 768 1).legal small.params = false ∧
      (HostAccess.memRead .idx 4 1).legal small.params = false ∧ (HostAccess.memRead .csb 16 1).legal small.params = false ∧
      (HostAccess.memRead .gif 900 1).legal small.params = false ∧ (HostAccess.memRead .reg 2 4).legal small.params = false ∧
      (HostAccess.memRead .reg 0 1).legal small.params = false ∧ (HostAccess.memRead .pix 0 4).legal small.params = false ∧
      (HostAccess.memWrite .gif 0 1 0).legal small.params = false ∧
      (HostAccess.memRead .smp 0 1).legal small.params = false := by decide
theorem witness_HostWhileIdle :
    small.status.busy = false ∧ 0x1C % 4 = 0 ∧ 0x1C ≠ 0 ∧ Space.gif ∈ [Space.pix, .pal, .idx, .csb, .gif] ∧
      899 < cellCount small.params .gif ∧ Space.pix ∈ [Space.pix, .pal, .idx, .csb] ∧ 15 < cellCount small.params .pix := by
  decide

/-- A run that has just been launched. -/
theorem running_flags : (running 1 1).FlagsOk :=
  ⟨by decide, by decide, by decide, by decide, by decide, by decide, by decide, by decide, by decide, by decide⟩

theorem witness_HostWhileBusy :
    (running 1 1).FlagsOk ∧ (running 1 1).status.busy = true ∧ (running 1 1).inQnt ∧
      (HostAccess.memWrite .pix 15 1 7).legal (running 1 1).params = true ∧ 0x04 % 4 = 0 ∧ Space.gif ≠ .reg ∧
      (HostAccess.memRead .gif 899 1).legal (running 1 1).params = true ∧ small.status.busy = false ∧
      (4 : Word) ∈ [(1 : Word), 2, 3, 4] :=
  ⟨running_flags, by decide⟩
theorem witness_HostWhileBusy_frm : (running 2 14).FlagsOk ∧ (running 2 14).inFrm :=
  ⟨⟨by decide, by decide, by decide, by decide, by decide, by decide, by decide, by decide, by decide, by decide⟩, by decide⟩
theorem witness_HostWhileBusy_lzw : (running 3 20).FlagsOk ∧ (running 3 20).inLzw :=
  ⟨⟨by decide, by decide, by decide, by decide, by decide, by decide, by decide, by decide, by decide, by decide⟩, by decide⟩
theorem witness_HousekeepingCommands : (running 1 1).status.busy = true ∧ small.status.busy = false := by decide
theorem witness_RunCommandsLaunch :
    small.status.busy = false ∧ Instr.build ∈ [Instr.quant, .frame, .lzw, .build] ∧
      ∃ t, exec .build small = .next t := ⟨by decide, by decide, _, rfl⟩

/-- An image at the capacity of the small machine: 2 × 2. -/
def image : State := { running 1 1 with width := 2, height := 2, pixlen := 16 }
theorem witness_QCheckTests_empty : (running 1 1).width.toNat * (running 1 1).height.toNat = 0 := by decide
theorem witness_QCheckTests_resource :
    { image with width := 5, height := 1 }.params.maxPix <
      { image with width := 5, height := 1 }.width.toNat * { image with width := 5, height := 1 }.height.toNat := by decide
theorem witness_QCheckTests_shape :
    image.width.toNat * image.height.toNat ≠ 0 ∧ image.width.toNat * image.height.toNat ≤ image.params.maxPix ∧
      { image with pixlen := 15 }.pixlen.toNat ≠ 4 * (image.width.toNat * image.height.toNat) := by decide
theorem witness_QCheckTests_pass :
    image.width.toNat * image.height.toNat ≠ 0 ∧ image.width.toNat * image.height.toNat ≤ image.params.maxPix ∧
      image.pixlen.toNat = 4 * (image.width.toNat * image.height.toNat) := by decide
theorem witness_QSampleFillsSmp : { small with count := 4 }.count.toNat ≤ { small with count := 4 }.params.maxPix := by decide
theorem witness_SampleBounds :
    1 ≤ { State.reset with count := 100000 }.count.toNat ∧ { State.reset with count := 100000 }.count.toNat ≤ 100000 ∧
      100000 < { State.reset with count := 100001 }.count.toNat ∧
      { State.reset with count := 100001 }.count.toNat ≤ State.reset.params.maxPix := by decide
theorem witness_QCutWritesPalette : { small with nsmp := 100000 }.nsmp.toNat ≤ 100000 ∧ small.nsmp.toNat ≤ 100000 := by decide
theorem witness_MedianCutRecursion : [black] ≠ [] := by decide
theorem witness_WidestChannel :
    ([⟨1, 2, 3⟩] : List Colour) ≠ [] ∧
      ∀ ch, (∃ c ∈ ([⟨1, 2, 3⟩] : List Colour), (channel c ch).toNat = (channel ⟨1, 2, 3⟩ ch).toNat) ∧
        (∃ c ∈ ([⟨1, 2, 3⟩] : List Colour), (channel c ch).toNat = (channel ⟨1, 2, 3⟩ ch).toNat) ∧
        ∀ c ∈ ([⟨1, 2, 3⟩] : List Colour), (channel ⟨1, 2, 3⟩ ch).toNat ≤ (channel c ch).toNat ∧
          (channel c ch).toNat ≤ (channel ⟨1, 2, 3⟩ ch).toNat := by
  refine ⟨by decide, fun ch => ?_⟩
  simp
theorem witness_MeanRoundsHalfUp : [black] ≠ [] := by decide
theorem witness_CutSize :
    [black].length = ([⟨1, 1, 1⟩] : List Colour).length ∧ [black, black, black] ≠ [] ∧
      [black].length = [black, black, black].length / 2 ∧
      [black, black].length = ([black, black, black].length + 1) / 2 ∧ 2 ^ 1 ≤ [black, black].length := by decide
theorem witness_QMapMapsPixel_more :
    small.params.Ok ∧ { running 1 5 with count := 4, pos := 2 }.pos.toNat < small.params.maxPix ∧
      { running 1 5 with count := 4, pos := 2 }.count.toNat ≠ 2 + 1 := by decide
theorem witness_QMapMapsPixel_last :
    { running 1 5 with count := 4, pos := 3 }.pos.toNat < small.params.maxPix ∧
      { running 1 5 with count := 4, pos := 3 }.count.toNat = 3 + 1 ∧ (running 1 5).chain = false ∧
      { running 1 5 with chain := true }.chain = true := by decide

/-- The same image before the run. -/
def imageIdle : State := { small with width := 2, height := 2, pixlen := 16 }
theorem witness_QuantRun :
    imageIdle.params.Ok ∧ imageIdle.status.busy = false ∧ imageIdle.host = [] ∧ 1 ≤ imageIdle.pixelCount ∧
      imageIdle.pixelCount ≤ imageIdle.params.maxPix ∧ imageIdle.pixlen.toNat = 4 * imageIdle.pixelCount := by decide
theorem witness_AlphaIsNotRead :
    (running 1 2).host = [] ∧
      (∀ a, a % 4 ≠ 3 →
        ({ running 1 2 with pix := (running 1 2).pix.put 3 7 } : State).pixAt a = (running 1 2).pixAt a) ∧
      ∃ t, step (running 1 2) = .next t := by
  refine ⟨rfl, fun a ha => ?_, ⟨_, rfl⟩⟩
  exact Memory.read_put_ne _ _ _ _ _ (by omega)

/-- A stream of 4 bytes and an image, ready to be framed; 807 bytes of GIF just hold the file. -/
def framed : State :=
  { running 2 8 with params := ⟨4, 16, 807⟩, width := 2, height := 1, csblen := 4 }
theorem witness_FCheckTests_config : { framed with mincs := 7 }.mincs ≠ 8 := by decide
theorem witness_FCheckTests_empty :
    framed.mincs = 8 ∧ ({ framed with width := 0 }.width = 0 ∨ framed.height = 0 ∨ framed.csblen = 0) := by decide
theorem witness_FCheckTests_resource :
    ¬(framed.width = 0 ∨ framed.height = 0 ∨ { framed with csblen := 5 }.csblen = 0) ∧
      framed.params.gifCap < 802 + { framed with csblen := 5 }.csblen.toNat + (5 + 254) / 255 := by decide
theorem witness_FCheckTests_pass :
    framed.mincs = 8 ∧ ¬(framed.width = 0 ∨ framed.height = 0 ∨ framed.csblen = 0) ∧
      802 + framed.csblen.toNat + (framed.csblen.toNat + 254) / 255 ≤ framed.params.gifCap := by decide
theorem witness_FHeadWrites :
    framed.params.Ok ∧ { framed with gptr := 794 }.gptr.toNat + 13 ≤ framed.params.gifCap ∧ framed.gptr = 0 := by decide
theorem witness_FGctWrites :
    framed.params.Ok ∧ { framed with gptr := 39 }.gptr.toNat + 768 ≤ framed.params.gifCap ∧
      { framed with gptr := 13 }.gptr = 13 := by decide
theorem witness_FGceWrites :
    framed.params.Ok ∧ { framed with gptr := 781 }.gptr.toNat + 8 ≤ framed.params.gifCap ∧
      { framed with gptr := 781 }.gptr = 781 := by decide
theorem witness_FImgWrites :
    framed.params.Ok ∧ { framed with gptr := 789 }.gptr.toNat + 11 ≤ framed.params.gifCap ∧
      { framed with gptr := 789 }.gptr = 789 := by decide
theorem witness_FDataWritesSubBlock :
    framed.params.Ok ∧ framed.pos.toNat < framed.csblen.toNat ∧ framed.csblen.toNat ≤ framed.params.csbCap ∧
      4 = min 255 (framed.csblen.toNat - framed.pos.toNat) ∧
      { framed with gptr := 802 }.gptr.toNat + 4 + 1 ≤ framed.params.gifCap := by decide
theorem witness_FDataWritesSubBlock_full :
    State.reset.params.Ok ∧ { State.reset with csblen := 256 }.csblen.toNat ≤ State.reset.params.csbCap ∧
      255 = min 255 ({ State.reset with csblen := 256 }.csblen.toNat - State.reset.pos.toNat) ∧
      { State.reset with gptr := 800 }.gptr.toNat + 255 + 1 ≤ State.reset.params.gifCap := by decide
theorem witness_FTrailCompletes :
    framed.params.Ok ∧ { framed with gptr := 805 }.gptr.toNat + 2 ≤ framed.params.gifCap ∧
      { framed with gptr := 805 }.gptr.toNat = 800 + framed.csblen.toNat + (framed.csblen.toNat + 254) / 255 ∧
      framed.chain = false ∧ { framed with len := 1 }.len ≠ 0 := by decide

/-- The same, before the run. -/
def framedIdle : State := { small with params := ⟨4, 16, 807⟩, width := 2, height := 1, csblen := 4 }
theorem witness_FrameRun :
    framedIdle.params.Ok ∧ framedIdle.status.busy = false ∧ framedIdle.host = [] ∧ framedIdle.mincs = 8 ∧
      framedIdle.width ≠ 0 ∧ framedIdle.height ≠ 0 ∧ framedIdle.csblen ≠ 0 ∧
      framedIdle.csblen.toNat ≤ framedIdle.params.csbCap ∧
      802 + framedIdle.csblen.toNat + (framedIdle.csblen.toNat + 254) / 255 ≤ framedIdle.params.gifCap := by decide
theorem witness_GifFileLayout : (List.replicate 768 (0 : Byte)).length = 768 := List.length_replicate

theorem witness_LCheckTests_config :
    ({ small with mincs := 1 }.mincs.toNat < 2 ∨ 8 < { small with mincs := 1 }.mincs.toNat) ∧
      ({ small with mincs := 9 }.mincs.toNat < 2 ∨ 8 < { small with mincs := 9 }.mincs.toNat) := by decide
theorem witness_LCheckTests_empty : ¬(small.mincs.toNat < 2 ∨ 8 < small.mincs.toNat) ∧ small.len = 0 := by decide
theorem witness_LCheckTests_resource :
    ¬({ small with mincs := 2 }.mincs.toNat < 2 ∨ 8 < { small with mincs := 2 }.mincs.toNat) ∧
      { small with len := 5 }.len ≠ 0 ∧ small.params.maxPix < { small with len := 5 }.len.toNat := by decide
theorem witness_LCheckTests_pass :
    ¬(small.mincs.toNat < 2 ∨ 8 < small.mincs.toNat) ∧ { small with len := 4 }.len ≠ 0 ∧
      { small with len := 4 }.len.toNat ≤ small.params.maxPix := by decide
theorem witness_LInitSeeds :
    small.params.Ok ∧ small.BufferOk ∧ 2 ≤ small.mincs.toNat ∧ small.mincs.toNat ≤ 8 ∧
      { small with optr := 15 }.optr.toNat + (small.nbits.toNat + (small.mincs.toNat + 1)) / 8 ≤ small.params.csbCap := by
  decide
theorem witness_LFirstTakesByte :
    small.params.Ok ∧
      ({ small with idx := small.idx.put 0 255 }.idxAt 0).toNat < 2 ^ { small with idx := small.idx.put 0 255 }.mincs.toNat := by
  decide

theorem oneEntry_dict : oneEntry.DictOk := by
  have hf : oneEntry.first = 258 := rfl
  have hn : oneEntry.next.toNat = 259 := rfl
  have hc : ∀ c, oneEntry.first ≤ c → c < oneEntry.next.toNat → c = 258 := by
    intro c h1 h2
    omega
  refine ⟨?_, ?_, ?_, ?_⟩
  · intro c h1 h2
    rw [hc c h1 h2]
    decide
  · intro c h1 h2
    rw [hc c h1 h2]
    decide
  · intro c h1 h2
    rw [hc c h1 h2]
    decide
  · intro c d h1 h2 h3 h4 _ _
    rw [hc c h1 h2, hc d h3 h4]

theorem looping_no_entry (k : Byte) (c : Nat) : ¬(looping k).IsEntry (looping k).w ((looping k).idxAt (looping k).pos.toNat) c := by
  rintro ⟨h1, h2, -⟩
  have h1' : 258 ≤ c := h1
  have h2' : c < 258 := h2
  omega

theorem witness_LoopCaseSelection :
    oneEntry.DictOk ∧ oneEntry.phase = 19 ∧ oneEntry.pos ≠ oneEntry.len ∧
      oneEntry.IsEntry oneEntry.w (oneEntry.idxAt oneEntry.pos.toNat) 258 ∧
      { oneEntry with pos := 2 }.pos = { oneEntry with pos := 2 }.len :=
  ⟨oneEntry_dict, by decide, by decide, by decide, by decide⟩
theorem witness_LoopCaseSelection_insert :
    (looping 1).phase = 19 ∧ (looping 1).pos ≠ (looping 1).len ∧
      (∀ c, ¬(looping 1).IsEntry (looping 1).w ((looping 1).idxAt (looping 1).pos.toNat) c) ∧
      (looping 1).next.toNat < 4096 := ⟨by decide, by decide, looping_no_entry 1, by decide⟩
theorem witness_LoopCaseSelection_reset :
    fullTable.phase = 19 ∧ fullTable.pos ≠ fullTable.len ∧
      (∀ c, ¬fullTable.IsEntry fullTable.w (fullTable.idxAt fullTable.pos.toNat) c) ∧ 4096 ≤ fullTable.next.toNat :=
  ⟨by decide, by decide, fullTable_no_entry, by decide⟩
theorem witness_LoopExtend :
    oneEntry.params.Ok ∧ oneEntry.DictOk ∧ oneEntry.next.toNat ≤ 4096 ∧ oneEntry.pos ≠ oneEntry.len ∧
      oneEntry.pos.toNat < oneEntry.params.maxPix ∧
      (oneEntry.idxAt oneEntry.pos.toNat).toNat < 2 ^ oneEntry.mincs.toNat ∧
      oneEntry.IsEntry oneEntry.w (oneEntry.idxAt oneEntry.pos.toNat) 258 :=
  ⟨by decide, oneEntry_dict, by decide⟩
theorem witness_LoopInsert :
    (looping 1).params.Ok ∧ (looping 1).BufferOk ∧ (looping 1).pos ≠ (looping 1).len ∧
      (looping 1).pos.toNat < (looping 1).params.maxPix ∧
      ((looping 1).idxAt (looping 1).pos.toNat).toNat < 2 ^ (looping 1).mincs.toNat ∧
      (∀ c, ¬(looping 1).IsEntry (looping 1).w ((looping 1).idxAt (looping 1).pos.toNat) c) ∧
      (looping 1).next.toNat < 4096 ∧ (looping 1).cw.toNat ≤ 12 ∧ (looping 1).w.toNat < 2 ^ (looping 1).cw.toNat ∧
      (looping 1).optr.toNat + ((looping 1).nbits.toNat + (looping 1).cw.toNat) / 8 ≤ (looping 1).params.csbCap :=
  ⟨by decide, by decide, by decide, by decide, by decide, looping_no_entry 1, by decide⟩
theorem witness_LoopReset :
    fullTable.params.Ok ∧ fullTable.BufferOk ∧ 2 ≤ fullTable.mincs.toNat ∧ fullTable.mincs.toNat ≤ 8 ∧
      fullTable.pos ≠ fullTable.len ∧ fullTable.pos.toNat < fullTable.params.maxPix ∧
      (fullTable.idxAt fullTable.pos.toNat).toNat < 2 ^ fullTable.mincs.toNat ∧
      (∀ c, ¬fullTable.IsEntry fullTable.w (fullTable.idxAt fullTable.pos.toNat) c) ∧
      4096 ≤ fullTable.next.toNat ∧ fullTable.cw.toNat ≤ 12 ∧ fullTable.mincs.toNat < fullTable.cw.toNat ∧
      fullTable.w.toNat < 2 ^ fullTable.cw.toNat ∧
      fullTable.optr.toNat + (fullTable.nbits.toNat + 2 * fullTable.cw.toNat) / 8 ≤ fullTable.params.csbCap :=
  ⟨by decide, by decide, by decide, by decide, by decide, by decide, by decide, fullTable_no_entry, by decide⟩
theorem witness_LoopEnd : { looping 1 with pos := 2 }.pos = { looping 1 with pos := 2 }.len := by decide

/-- L_FINISH with one pending code. -/
def finishing : State := { looping 0 with w := 5, phase := 20, pos := 2 }
theorem witness_LFinishCompletes :
    finishing.params.Ok ∧ finishing.BufferOk ∧ finishing.cw.toNat ≤ 12 ∧ finishing.w.toNat < 2 ^ finishing.cw.toNat ∧
      2 ^ finishing.mincs.toNat + 1 < 2 ^ finishing.cw.toNat ∧
      { finishing with optr := 13 }.optr.toNat + (finishing.nbits.toNat + 2 * finishing.cw.toNat + 7) / 8 ≤
        finishing.params.csbCap ∧
      finishing.chain = false ∧ { finishing with chain := true }.chain = true := by decide
theorem witness_EmitCodeAppendsBits_byte :
    { looping 0 with optr := 16 }.optr.toNat = (looping 0).params.csbCap ∧
      { looping 0 with optr := 15 }.optr.toNat < (looping 0).params.csbCap ∧ (looping 0).params.csbCap < 2 ^ 32 := by decide
theorem witness_EmitCodeAppendsBits :
    (looping 0).BufferOk ∧ (511 : Nat) < 2 ^ 9 ∧ (looping 0).params.csbCap < 2 ^ 32 ∧
      (looping 0).optr.toNat ≤ (looping 0).params.csbCap ∧
      (looping 0).optr.toNat + ((looping 0).nbits.toNat + 9) / 8 ≤ (looping 0).params.csbCap ∧
      { looping 0 with optr := 16 }.params.csbCap < { looping 0 with optr := 16 }.optr.toNat + ((looping 0).nbits.toNat + 9) / 8 := by
  decide
theorem witness_LFirstTakesByte_symbol :
    small.params.Ok ∧ 2 ^ { small with mincs := 2, idx := small.idx.put 0 4 }.mincs.toNat ≤
      ({ small with mincs := 2, idx := small.idx.put 0 4 }.idxAt 0).toNat := by decide
theorem witness_LoopCaseSelection_symbol :
    (looping 4).host = [] ∧ (looping 4).phase = 19 ∧ (looping 4).pos ≠ (looping 4).len ∧
      (looping 4).pos.toNat < (looping 4).params.maxPix ∧
      2 ^ { looping 4 with mincs := 2 }.mincs.toNat ≤ ({ looping 4 with mincs := 2 }.idxAt (looping 4).pos.toNat).toNat := by
  decide
theorem witness_LInitSeeds_full :
    small.params.Ok ∧ small.BufferOk ∧ 2 ≤ small.mincs.toNat ∧ small.mincs.toNat ≤ 8 ∧
      { small with optr := 16 }.optr.toNat ≤ small.params.csbCap ∧
      small.params.csbCap < { small with optr := 16 }.optr.toNat + (small.nbits.toNat + (small.mincs.toNat + 1)) / 8 := by
  decide
theorem witness_LoopInsert_full :
    (looping 1).BufferOk ∧ (looping 1).pos ≠ (looping 1).len ∧ (looping 1).pos.toNat < (looping 1).params.maxPix ∧
      ((looping 1).idxAt (looping 1).pos.toNat).toNat < 2 ^ (looping 1).mincs.toNat ∧
      (∀ c, ¬(looping 1).IsEntry (looping 1).w ((looping 1).idxAt (looping 1).pos.toNat) c) ∧
      (looping 1).cw.toNat ≤ 12 ∧ (looping 1).mincs.toNat < (looping 1).cw.toNat ∧
      (looping 1).w.toNat < 2 ^ (looping 1).cw.toNat ∧ (looping 1).next.toNat < 4096 ∧
      { looping 1 with optr := 16 }.optr.toNat ≤ (looping 1).params.csbCap ∧
      (looping 1).params.csbCap <
        { looping 1 with optr := 16 }.optr.toNat + ((looping 1).nbits.toNat + (looping 1).cw.toNat) / 8 :=
  ⟨by decide, by decide, by decide, by decide, looping_no_entry 1, by decide⟩
theorem witness_LoopReset_full :
    (∀ c, ¬fullTable.IsEntry fullTable.w (fullTable.idxAt fullTable.pos.toNat) c) ∧ 4096 ≤ fullTable.next.toNat ∧
      { fullTable with optr := 14 }.optr.toNat ≤ fullTable.params.csbCap ∧
      fullTable.params.csbCap <
        { fullTable with optr := 14 }.optr.toNat + (fullTable.nbits.toNat + 2 * fullTable.cw.toNat) / 8 :=
  ⟨fullTable_no_entry, by decide⟩
theorem witness_LFinishCompletes_full :
    finishing.BufferOk ∧ { finishing with optr := 14 }.optr.toNat ≤ finishing.params.csbCap ∧
      finishing.params.csbCap <
        { finishing with optr := 14 }.optr.toNat + (finishing.nbits.toNat + 2 * finishing.cw.toNat + 7) / 8 := by decide

/-- One index byte, ready to be compressed. -/
def oneByte : State := { small with len := 1, idx := small.idx.put 0 5 }
theorem witness_LzwRun :
    oneByte.params.Ok ∧ oneByte.status.busy = false ∧ oneByte.host = [] ∧ 2 ≤ oneByte.mincs.toNat ∧
      oneByte.mincs.toNat ≤ 8 ∧ 1 ≤ oneByte.len.toNat ∧ oneByte.len.toNat ≤ oneByte.params.maxPix ∧
      (∀ i, i < oneByte.len.toNat → (oneByte.idxAt i).toNat < 2 ^ oneByte.mincs.toNat) ∧
      (lzwStream oneByte.mincs.toNat (oneByte.indexList oneByte.len.toNat)).length ≤ oneByte.params.csbCap := by
  refine ⟨by decide, by decide, by decide, by decide, by decide, by decide, by decide, ?_, by decide +kernel⟩
  intro i hi
  have : oneByte.len.toNat = 1 := rfl
  have : i = 0 := by omega
  subst this
  decide
theorem witness_CodeStreamGrammar : (2 ≤ 2 ∧ 2 ≤ 8) ∧ [3, 3, 3] ≠ [] ∧ (∀ x ∈ [3, 3, 3], x < 2 ^ 2) := by decide
theorem witness_StreamLengthBound : (2 ≤ 8 ∧ 8 ≤ 8) ∧ [255] ≠ [] := by decide
theorem witness_LzwRoundTrip : (2 ≤ 8 ∧ 8 ≤ 8) ∧ (∀ x ∈ [255, 0, 255], x < 2 ^ 8) := by decide
theorem witness_BuildRun :
    imageIdle.params.Ok ∧ imageIdle.status.busy = false ∧ imageIdle.host = [] ∧ 1 ≤ imageIdle.pixelCount ∧
      imageIdle.pixelCount ≤ imageIdle.params.maxPix ∧ imageIdle.pixlen.toNat = 4 * imageIdle.pixelCount ∧
      2 * imageIdle.pixelCount + 4 ≤ imageIdle.params.csbCap ∧
      802 + (2 * imageIdle.pixelCount + 4) + (2 * imageIdle.pixelCount + 4 + 254) / 255 ≤ imageIdle.params.gifCap := by decide

/-- A state of the small machine with nothing in its memories meets the invariant, if its flags and registers do. -/
theorem inv_unwritten (s : State) (hm : s.MemoriesOk) (hp : s.params.Ok) (hf : s.FlagsOk) (hl : s.LengthsOk) (hq : s.QntOk)
    (hph : s.phase.toNat < 8) (hc : s.ChainOk) : s.Inv := by
  refine ⟨hp, hf, hm, hl, hq, ⟨?_, ?_, ?_, ?_, ?_, ?_, ?_⟩, ⟨?_, ?_, ?_, ?_, ?_, ?_, ?_, ?_⟩, hc⟩
  all_goals first
    | (intro h; exact absurd hph (by rw [h]; decide))
    | (intro h1 h2; omega)

theorem running_inv : (running 1 1).Inv :=
  inv_unwritten _
    ⟨.nil, .nil, .nil, .nil, .nil, .nil, .nil, .nil, by decide, by decide, by decide, by decide, by decide, by decide,
      by decide, by decide⟩
    (by decide) running_flags
    ⟨by decide, by decide, by decide, by decide, by decide, by decide, by decide, by decide, by decide, by decide, by decide⟩
    ⟨by decide, by decide, by decide, by decide⟩ (by decide)
    ⟨by decide, by decide, by decide, by decide, by decide⟩

/-- Q_MAP at the last pixel of a 1 × 1 image. -/
def lastPixel : State :=
  { running 1 5 with width := 1, height := 1, pixlen := 4, count := 1, ncolw := 9 }

theorem lastPixel_inv : lastPixel.Inv :=
  inv_unwritten _
    ⟨.nil, .nil, .nil, .nil, .nil, .nil, .nil, .nil, by decide, by decide, by decide, by decide, by decide, by decide,
      by decide, by decide⟩
    (by decide)
    ⟨by decide, by decide, by decide, by decide, by decide, by decide, by decide, by decide, by decide, by decide⟩
    ⟨by decide, by decide, by decide, by decide, by decide, by decide, by decide, by decide, by decide, by decide, by decide⟩
    ⟨by decide, by decide, by decide, by decide⟩ (by decide)
    ⟨by decide, by decide, by decide, by decide, by decide⟩

theorem witness_StepKeepsInvariant : lastPixel.Inv ∧ ∃ t, step lastPixel = .next t := ⟨lastPixel_inv, _, rfl⟩
theorem witness_EveryStepAnswers :
    lastPixel.Inv ∧ ∀ a rest, lastPixel.host = .access a :: rest → a.legal lastPixel.params = true :=
  ⟨lastPixel_inv, fun _ _ h => by cases h⟩
theorem witness_RunEndsDoneOrErr :
    lastPixel.Inv ∧ lastPixel.host = [] ∧ lastPixel.status.busy = true ∧
      ∃ t, step lastPixel = .next t ∧ t.status.busy = false := ⟨lastPixel_inv, rfl, rfl, _, rfl, rfl⟩
theorem witness_RunEndsDoneOrErr_err :
    (running 1 1).Inv ∧ (running 1 1).host = [] ∧ (running 1 1).status.busy = true ∧
      ∃ t, step (running 1 1) = .next t ∧ t.status.busy = false := ⟨running_inv, rfl, rfl, _, rfl, rfl⟩
theorem witness_ErrorEntryLeaves :
    (running 1 1).Inv ∧ (running 1 1).host = [] ∧ (running 1 1).status.busy = true ∧
      ∃ t, step (running 1 1) = .next t ∧ t.status.err = true := ⟨running_inv, rfl, rfl, _, rfl, rfl⟩
/-- A BUILD run that is to fail at Q_CHECK. -/
def building : State := { running 1 1 with chain := true }
theorem building_inv : building.Inv :=
  inv_unwritten _
    ⟨.nil, .nil, .nil, .nil, .nil, .nil, .nil, .nil, by decide, by decide, by decide, by decide, by decide, by decide,
      by decide, by decide⟩
    (by decide)
    ⟨by decide, by decide, by decide, by decide, by decide, by decide, by decide, by decide, by decide, by decide⟩
    ⟨by decide, by decide, by decide, by decide, by decide, by decide, by decide, by decide, by decide, by decide, by decide⟩
    ⟨by decide, by decide, by decide, by decide⟩ (by decide)
    ⟨by decide, by decide, by decide, by decide, by decide⟩
theorem witness_BuildErrors :
    building.Inv ∧ building.chain = true ∧ building.host = [] ∧
      ∃ t, step building = .next t ∧ t.status.err = true := ⟨building_inv, rfl, rfl, _, rfl, rfl⟩
theorem witness_UnitsKeepToTheirOutputs_qnt :
    lastPixel.host = [] ∧ lastPixel.inQnt ∧ ∃ t, step lastPixel = .next t := ⟨rfl, by decide, _, rfl⟩
theorem witness_UnitsKeepToTheirOutputs_chained :
    { running 1 5 with chain := true, count := 1 }.host = [] ∧ { running 1 5 with chain := true, count := 1 }.inQnt ∧
      (after (step { running 1 5 with chain := true, count := 1 })).map (·.status.busy) = some true :=
  ⟨rfl, by decide, by decide +kernel⟩
theorem witness_UnitsKeepToTheirOutputs_trail :
    { framed with phase := 14, gptr := 805 }.host = [] ∧ { framed with phase := 14, gptr := 805 }.inFrm ∧
      { framed with phase := 14, gptr := 805 }.chain = false ∧
      (after (step { framed with phase := 14, gptr := 805 })).map (·.status.done) = some true :=
  ⟨rfl, by decide, rfl, by decide +kernel⟩
theorem witness_UnitsKeepToTheirOutputs_frm :
    framed.host = [] ∧ framed.inFrm ∧ (after (step framed)).map (·.phase) = some 9 :=
  ⟨rfl, by decide, by decide⟩
theorem witness_UnitsKeepToTheirOutputs_lzw :
    (running 3 16).host = [] ∧ (running 3 16).inLzw ∧ (after (step (running 3 16))).map (·.status.err) = some true :=
  ⟨rfl, by decide, by decide⟩
theorem witness_EveryRunTerminates : lastPixel.Inv ∧ lastPixel.host = [] := ⟨lastPixel_inv, rfl⟩

end Sys2Proof.Tests
end

/-! ## The register bank, the IRQ line and CMD (spec/10_state.md R21, R22, R32, R49) -/

section
namespace Sys2Proof.Machine

/-! ### STATUS and IE as words -/

/-- The number of a concatenation: the low part below, the high part above it. -/
theorem toNat_append_eq_add {m n : Nat} (x : BitVec m) (y : BitVec n) : (x ++ y).toNat = 2 ^ n * x.toNat + y.toNat := by
  rw [BitVec.toNat_append, Nat.shiftLeft_eq, Nat.mul_comm, ← Nat.two_pow_add_eq_or_of_lt y.isLt]

theorem Status.word_toNat (f : Status) :
    f.word.toNat = f.busy.toNat + 2 * f.done.toNat + 4 * f.err.toNat + 16 * f.errCode.toNat + 256 * f.unit.toNat := by
  simp only [Status.word, toNat_append_eq_add, BitVec.toNat_ofBool, BitVec.ofNat_eq_ofNat, BitVec.toNat_ofNat]
  omega

theorem IrqEnable.word_toNat (e : IrqEnable) : e.word.toNat = e.doneIe.toNat + 2 * e.errIe.toNat := by
  simp only [IrqEnable.word, toNat_append_eq_add, BitVec.toNat_ofBool, BitVec.ofNat_eq_ofNat, BitVec.toNat_ofNat]
  omega

theorem Status.word_done (f : Status) : f.word.getLsbD 1 = f.done := by
  simp only [Status.word, BitVec.getLsbD_append]
  simp

theorem Status.word_err (f : Status) : f.word.getLsbD 2 = f.err := by
  simp only [Status.word, BitVec.getLsbD_append]
  simp

theorem IrqEnable.word_doneIe (e : IrqEnable) : e.word.getLsbD 0 = e.doneIe := by
  simp only [IrqEnable.word, BitVec.getLsbD_append]
  simp

theorem IrqEnable.word_errIe (e : IrqEnable) : e.word.getLsbD 1 = e.errIe := by
  simp only [IrqEnable.word, BitVec.getLsbD_append]
  simp

/-! ### Offsets -/

theorem regAt_of_not_register {a : Nat} (h : 0x28 < a ∨ a % 4 ≠ 0) : regAt a = none := by
  unfold regAt
  split
  case h_12 => rfl
  all_goals omega

theorem readOffset_fields (s : State) :
    s.readOffset 0x00 = 0 ∧
    (s.readOffset 0x04).toNat =
      s.status.busy.toNat + 2 * s.status.done.toNat + 4 * s.status.err.toNat + 16 * s.status.errCode.toNat +
        256 * s.status.unit.toNat ∧
    (s.readOffset 0x08).toNat = s.ie.doneIe.toNat + 2 * s.ie.errIe.toNat ∧
    (s.readOffset 0x0C).toNat = s.width.toNat ∧
    (s.readOffset 0x10).toNat = s.height.toNat ∧
    s.readOffset 0x14 = s.pixlen ∧
    s.readOffset 0x18 = s.len ∧
    (s.readOffset 0x1C).toNat = s.mincs.toNat ∧
    s.readOffset 0x20 = s.csblen ∧
    s.readOffset 0x24 = s.giflen ∧
    (s.readOffset 0x28).toNat = s.ncol.toNat :=
  ⟨rfl, Status.word_toNat _, IrqEnable.word_toNat _, BitVec.toNat_setWidth_of_le (by decide),
    BitVec.toNat_setWidth_of_le (by decide), rfl, rfl, BitVec.toNat_setWidth_of_le (by decide), rfl, rfl,
    BitVec.toNat_setWidth_of_le (by decide)⟩

theorem writeOffset_fields (s : State) (v : Word) :
    s.writeOffset 0x04 v = s ∧
    s.writeOffset 0x08 v = { s with ie := ⟨v.getLsbD 0, v.getLsbD 1⟩ } ∧
    s.writeOffset 0x0C v = { s with width := v.setWidth 16 } ∧
    s.writeOffset 0x10 v = { s with height := v.setWidth 16 } ∧
    s.writeOffset 0x14 v = { s with pixlen := v } ∧
    s.writeOffset 0x18 v = { s with len := v } ∧
    s.writeOffset 0x1C v = { s with mincs := v.setWidth 4 } ∧
    s.writeOffset 0x20 v = s ∧
    s.writeOffset 0x24 v = s ∧
    s.writeOffset 0x28 v = s := by
  rw [BitVec.setWidth_eq_extractLsb' (by decide), BitVec.setWidth_eq_extractLsb' (by decide)]
  exact ⟨rfl, rfl, rfl, rfl, rfl, rfl, rfl, rfl, rfl, rfl⟩

theorem offset_not_register (s : State) {a : Nat} (v : Word) (h : 0x28 < a ∨ a % 4 ≠ 0) :
    s.readOffset a = 0 ∧ s.writeOffset a v = s := by
  simp [State.readOffset, State.writeOffset, regAt_of_not_register h]

/-- After reset MINCS alone reads as a value other than 0 (spec/10_state.md R53). -/
theorem readReg_reset (r : RegName) : State.reset.readReg r = if r.offset = 0x1C then 8 else 0 := by
  cases r <;> decide

theorem offset_of_regAt {a : Nat} {r : RegName} (h : regAt a = some r) : r.offset = a := by
  unfold regAt at h
  split at h <;> cases h <;> rfl

theorem readOffset_reset (a : Nat) : State.reset.readOffset a = if a = 0x1C then 8 else 0 := by
  unfold State.readOffset
  cases h : regAt a with
  | some r => rw [← offset_of_regAt h]; exact readReg_reset r
  | none =>
    have : a ≠ 0x1C := by rintro rfl; cases h
    exact (if_neg this).symm

/-! ### The obligations -/

/-- Settles O7: each register as its number or its bits, offset by offset; the other offsets name no register. -/
theorem registerBank : Obligations.RegisterBank := by
  unfold Obligations.RegisterBank
  exact ⟨readOffset_fields, writeOffset_fields, fun s _ v h => offset_not_register s v h, readOffset_reset⟩

/-- Settles O11: IRQ read off the bits of the words STATUS and IE. -/
theorem irqLine : Obligations.IrqLine := by
  unfold Obligations.IrqLine
  intro s
  change s.irq = ((s.status.word.getLsbD 1 && s.ie.word.getLsbD 0) || (s.status.word.getLsbD 2 && s.ie.word.getLsbD 1))
  rw [Status.word_done, Status.word_err, IrqEnable.word_doneIe, IrqEnable.word_errIe]
  rfl

/-- Settles O6: CMD is legal to access at offset 0, a write is dispatched as a command, a read answers 0. -/
theorem stepRunsCommand : Obligations.StepRunsCommand := by
  unfold Obligations.StepRunsCommand
  exact fun _ _ _ => ⟨rfl, rfl⟩

end Sys2Proof.Machine
end

/-! ## What the invariant says of an idle machine and of each running unit

`State.Inv` as four cases, by PHASE. Each case holds only the clauses that are not vacuous in it, so a step's proof names
what the step changes and takes the rest over from the state before. -/

section
namespace Sys2Proof.Machine

/-! ### The flags of a running unit -/

/-- PHASE is a phase of the unit (spec/10_state.md R34). -/
def State.inUnit (s : State) : UnitName → Prop
  | .qnt => s.inQnt
  | .frm => s.inFrm
  | .lzw => s.inLzw

/-- The length register a unit writes (spec/10_state.md R29 to R31). -/
def State.ownLength (s : State) : UnitName → Nat
  | .qnt => s.ncol.toNat
  | .frm => s.giflen.toNat
  | .lzw => s.csblen.toNat

theorem UnitName.number_inj {u v : UnitName} (h : u.number = v.number) : u = v := by
  cases u <;> cases v <;> simp_all [UnitName.number]

theorem State.inUnit_unique {s : State} {u v : UnitName} (hu : s.inUnit u) (hv : s.inUnit v) : u = v := by
  by_contra hne
  cases u <;> cases v <;> simp_all only [State.inUnit, not_true_eq_false] <;> omega

theorem phase_listed_of_unit :
    ∀ p : BitVec 5, (1 ≤ p.toNat ∧ p.toNat ≤ 5) ∨ (8 ≤ p.toNat ∧ p.toNat ≤ 14) ∨ (16 ≤ p.toNat ∧ p.toNat ≤ 20) →
      p ∈ listedPhases ∧ p ≠ phIdle := by decide

theorem State.inUnit_listed {s : State} {u : UnitName} (h : s.inUnit u) :
    s.phase ∈ listedPhases ∧ s.phase ≠ phIdle := by
  refine phase_listed_of_unit _ ?_
  cases u
  · exact .inl h
  · exact .inr (.inl h)
  · exact .inr (.inr h)

/-- A running unit's STATUS is what launch left, up to UNIT (spec/40_commands.md R112, R121). -/
theorem State.FlagsOk.status_launched {s : State} {u : UnitName} (h : s.FlagsOk) (hu : s.inUnit u) :
    s.status = .launched u := by
  have hbusy : s.status.busy = true := h.busy_iff.2 (State.inUnit_listed hu).2
  obtain ⟨hdone, herr⟩ := h.quiet hbusy
  have hcode := h.no_code herr
  have hunit : s.status.unit = u.number := by
    cases u
    · exact h.unit_qnt hu
    · exact h.unit_frm hu
    · exact h.unit_lzw hu
  generalize s.status = f at *
  cases f
  simp_all [Status.launched]

theorem State.flagsOk_of_launched {s : State} {u : UnitName} (hs : s.status = .launched u) (hu : s.inUnit u) :
    s.FlagsOk := by
  obtain ⟨hlisted, hbusy⟩ := State.inUnit_listed hu
  have hunit : ∀ v, s.inUnit v → s.status.unit = v.number := by
    intro v hv
    rw [hs, State.inUnit_unique hv hu]
    rfl
  exact
    { phase_listed := hlisted
      busy_iff := by simpa [hs, Status.launched] using hbusy
      not_both := by simp [hs, Status.launched]
      quiet := by simp [hs, Status.launched]
      no_code := by simp [hs, Status.launched]
      some_code := by simp [hs, Status.launched]
      chain_busy := by simp [hs, Status.launched]
      unit_qnt := hunit .qnt
      unit_frm := hunit .frm
      unit_lzw := hunit .lzw }

/-! ### The cases of the invariant -/

/-- Memories in order and length registers within their memories. -/
structure State.Bounded (s : State) : Prop extends s.MemoriesOk where
  params : s.params.Ok
  csblen_le : s.csblen.toNat ≤ s.params.csbCap
  giflen_le : s.giflen.toNat ≤ s.params.gifCap
  ncol_le : s.ncol.toNat ≤ palSize

/-- The sizes of the memories (spec/00_scope.md R10). -/
theorem State.Bounded.caps {s : State} (h : s.Bounded) :
    s.params.maxPix < 2 ^ 30 ∧ s.params.csbCap < 2 ^ 32 ∧ s.params.gifCap < 2 ^ 32 := by
  obtain ⟨⟨-, hpix⟩, ⟨-, hcsb⟩, ⟨-, hgif⟩⟩ := h.params
  exact ⟨by omega, hcsb, hgif⟩

/-- What STATUS says between runs (spec/10_state.md R23). -/
structure Status.Resting (f : Status) : Prop where
  idle : f.busy = false
  not_both : ¬(f.done = true ∧ f.err = true)
  no_code : f.err = false → f.errCode = 0
  some_code : f.err = true → 1 ≤ f.errCode.toNat ∧ f.errCode.toNat ≤ 6

/-- The invariant between runs. -/
structure State.Idles (s : State) : Prop extends s.Bounded where
  phase : s.phase = phIdle
  chain : s.chain = false
  resting : s.status.Resting
  failed : ∀ u, s.status.err = true → s.status.unit = u.number → s.ownLength u = 0

/-- The invariant while QNT runs. -/
structure State.QntRuns (s : State) : Prop extends s.Bounded, s.QntOk where
  status : s.status = .launched .qnt
  phase : s.inQnt
  ncol : s.ncol = 0
  build : s.chain = true → s.mincs = gifMincs ∧ s.csblen = 0 ∧ s.giflen = 0
  image : s.chain = true → s.phase ≠ phQCheck → s.width ≠ 0 ∧ s.height ≠ 0

/-- The invariant while LZW runs. -/
structure State.LzwRuns (s : State) : Prop extends s.Bounded, s.LzwOk where
  status : s.status = .launched .lzw
  phase : s.inLzw
  csblen : s.csblen = 0
  build : s.chain = true → s.mincs = gifMincs ∧ s.giflen = 0 ∧ s.width ≠ 0 ∧ s.height ≠ 0 ∧ 1 ≤ s.len.toNat ∧
    s.len.toNat ≤ s.params.maxPix
  emitted : s.chain = true → 18 ≤ s.phase.toNat → 1 ≤ s.optr.toNat

/-- The invariant while FRM runs. -/
structure State.FrmRuns (s : State) : Prop extends s.Bounded, s.FrmOk where
  status : s.status = .launched .frm
  phase : s.inFrm
  giflen : s.giflen = 0
  build : s.chain = true → s.mincs = gifMincs ∧ s.width ≠ 0 ∧ s.height ≠ 0 ∧ 1 ≤ s.csblen.toNat

/-! ### Clauses that are vacuous outside their phases -/

theorem State.qntOk_of_phase {s : State} (h : s.phase.toNat ≤ 1 ∨ 6 ≤ s.phase.toNat) : s.QntOk := by
  have ne : ∀ {p : BitVec 5}, 2 ≤ p.toNat → p.toNat ≤ 5 → s.phase ≠ p := by rintro p h2 h5 rfl; omega
  exact
    { counted := by omega
      sampled := fun e => absurd e (ne (by decide) (by decide))
      coloured := fun e => e.elim (fun e => absurd e (ne (by decide) (by decide)))
        (fun e => absurd e (ne (by decide) (by decide)))
      position := fun e => absurd e (ne (by decide) (by decide)) }

theorem State.frmOk_of_phase {s : State} (h : s.phase.toNat ≤ 8 ∨ 15 ≤ s.phase.toNat) : s.FrmOk := by
  have ne : ∀ {p : BitVec 5}, 9 ≤ p.toNat → p.toNat ≤ 14 → s.phase ≠ p := by rintro p h9 h14 rfl; omega
  exact
    { checked := by omega
      at_head := fun e => absurd e (ne (by decide) (by decide))
      at_gct := fun e => absurd e (ne (by decide) (by decide))
      at_gce := fun e => absurd e (ne (by decide) (by decide))
      at_img := fun e => absurd e (ne (by decide) (by decide))
      at_data := fun e => absurd e (ne (by decide) (by decide))
      at_trail := fun e => absurd e (ne (by decide) (by decide)) }

theorem State.lzwOk_of_phase {s : State} (h : s.phase.toNat ≤ 16) : s.LzwOk := by
  have ne : ∀ {p : BitVec 5}, 17 ≤ p.toNat → s.phase ≠ p := by rintro p h17 rfl; omega
  exact
    { checked := by omega
      at_init := fun e => absurd e (ne (by decide))
      buffered := by omega
      tabled := by omega
      at_first := fun e => absurd e (ne (by decide))
      pending := by omega
      position := fun e => absurd e (ne (by decide))
      at_finish := fun e => absurd e (ne (by decide)) }

/-! ### From the invariant to its cases -/

theorem State.Inv.bounded {s : State} (h : s.Inv) : s.Bounded :=
  { h.memories with
    params := h.params
    csblen_le := h.lengths.csblen_le
    giflen_le := h.lengths.giflen_le
    ncol_le := h.lengths.ncol_le }

theorem State.Inv.idles {s : State} (h : s.Inv) (hb : s.status.busy = false) : s.Idles :=
  { h.bounded with
    phase := by
      by_contra hp
      exact absurd (h.flags.busy_iff.2 hp) (by simp [hb])
    chain := by
      cases hc : s.chain
      · rfl
      · exact absurd (h.flags.chain_busy hc) (by simp [hb])
    resting := ⟨hb, h.flags.not_both, h.flags.no_code, h.flags.some_code⟩
    failed := by
      intro u he hu
      cases u
      · exact congrArg BitVec.toNat (h.lengths.ncol_failed he hu)
      · exact congrArg BitVec.toNat (h.lengths.giflen_failed he hu)
      · exact congrArg BitVec.toNat (h.lengths.csblen_failed he hu) }

theorem State.Inv.qntRuns {s : State} (h : s.Inv) (hp : s.inQnt) : s.QntRuns :=
  { h.bounded, h.qnt with
    status := h.flags.status_launched (u := .qnt) hp
    phase := hp
    ncol := h.lengths.ncol_run hp
    build := fun hc => ⟨h.chained.mincs hc, h.lengths.csblen_chain hc hp, h.lengths.giflen_chain hc⟩
    image := h.chained.image }

theorem State.Inv.lzwRuns {s : State} (h : s.Inv) (hp : s.inLzw) : s.LzwRuns :=
  { h.bounded, h.lzw with
    status := h.flags.status_launched (u := .lzw) hp
    phase := hp
    csblen := h.lengths.csblen_run hp
    build := by
      intro hc
      obtain ⟨hw, hh⟩ := h.chained.image hc (by rintro e; rw [State.inLzw, e] at hp; exact absurd hp (by decide))
      exact ⟨h.chained.mincs hc, h.lengths.giflen_chain hc, hw, hh, h.chained.indices hc hp⟩
    emitted := fun hc h18 => h.chained.emitted hc h18 hp.2 }

theorem State.Inv.frmRuns {s : State} (h : s.Inv) (hp : s.inFrm) : s.FrmRuns :=
  { h.bounded, h.frm with
    status := h.flags.status_launched (u := .frm) hp
    phase := hp
    giflen := h.lengths.giflen_run hp
    build := by
      intro hc
      obtain ⟨hw, hh⟩ := h.chained.image hc (by rintro e; rw [State.inFrm, e] at hp; exact absurd hp (by decide))
      exact ⟨h.chained.mincs hc, hw, hh, h.chained.stream hc hp⟩ }

theorem phase_cases :
    ∀ p ∈ listedPhases, p = phIdle ∨ (1 ≤ p.toNat ∧ p.toNat ≤ 5) ∨ (8 ≤ p.toNat ∧ p.toNat ≤ 14) ∨
      (16 ≤ p.toNat ∧ p.toNat ≤ 20) := by decide

/-- The machine is idle or one of its units runs. -/
theorem State.Inv.cases {s : State} (h : s.Inv) : s.phase = phIdle ∨ s.QntRuns ∨ s.FrmRuns ∨ s.LzwRuns := by
  rcases phase_cases _ h.flags.phase_listed with hp | hp | hp | hp
  · exact .inl hp
  · exact .inr (.inl (h.qntRuns hp))
  · exact .inr (.inr (.inl (h.frmRuns hp)))
  · exact .inr (.inr (.inr (h.lzwRuns hp)))

/-! ### From the cases to the invariant -/

theorem State.Idles.inv {s : State} (h : s.Idles) : s.Inv := by
  have h0 : s.phase.toNat = 0 := by rw [h.phase]; rfl
  have hc : s.chain ≠ true := by simp [h.chain]
  have hb : s.status.busy ≠ true := by simp [h.resting.idle]
  exact
    { params := h.params
      memories := h.toMemoriesOk
      flags :=
        { phase_listed := by rw [h.phase]; decide
          busy_iff := by simp [h.resting.idle, h.phase]
          not_both := h.resting.not_both
          quiet := fun e => absurd e hb
          no_code := h.resting.no_code
          some_code := h.resting.some_code
          chain_busy := fun e => absurd e hc
          unit_qnt := by omega
          unit_frm := by omega
          unit_lzw := by omega }
      lengths :=
        { csblen_le := h.csblen_le
          giflen_le := h.giflen_le
          ncol_le := h.ncol_le
          ncol_run := by omega
          csblen_run := by omega
          giflen_run := by omega
          csblen_chain := fun e => absurd e hc
          giflen_chain := fun e => absurd e hc
          ncol_failed := fun e hu => BitVec.eq_of_toNat_eq (h.failed .qnt e hu)
          csblen_failed := fun e hu => BitVec.eq_of_toNat_eq (h.failed .lzw e hu)
          giflen_failed := fun e hu => BitVec.eq_of_toNat_eq (h.failed .frm e hu) }
      qnt := State.qntOk_of_phase (by omega)
      frm := State.frmOk_of_phase (by omega)
      lzw := State.lzwOk_of_phase (by omega)
      chained :=
        { mincs := fun e => absurd e hc
          image := fun e => absurd e hc
          indices := fun e => absurd e hc
          emitted := fun e => absurd e hc
          stream := fun e => absurd e hc } }

/-- The length registers while a unit runs: its own is 0, and under BUILD those of the units to come. -/
theorem State.Bounded.lengthsOk_of_launched {s : State} {u : UnitName} (h : s.Bounded) (hs : s.status = .launched u)
    (hu : s.inUnit u) (hz : s.ownLength u = 0)
    (hchain : s.chain = true → s.giflen = 0 ∧ (s.inQnt → s.csblen = 0)) : s.LengthsOk := by
  have herr : s.status.err ≠ true := by simp [hs, Status.launched]
  have hrun : ∀ v, s.inUnit v → s.ownLength v = 0 := by
    intro v hv
    rwa [State.inUnit_unique hv hu]
  exact
    { csblen_le := h.csblen_le
      giflen_le := h.giflen_le
      ncol_le := h.ncol_le
      ncol_run := fun hq => BitVec.eq_of_toNat_eq (hrun .qnt hq)
      csblen_run := fun hl => BitVec.eq_of_toNat_eq (hrun .lzw hl)
      giflen_run := fun hf => BitVec.eq_of_toNat_eq (hrun .frm hf)
      csblen_chain := fun hc => (hchain hc).2
      giflen_chain := fun hc => (hchain hc).1
      ncol_failed := fun e => absurd e herr
      csblen_failed := fun e => absurd e herr
      giflen_failed := fun e => absurd e herr }

theorem State.QntRuns.inv {s : State} (h : s.QntRuns) : s.Inv := by
  obtain ⟨hlo, hhi⟩ := h.phase
  exact
    { params := h.params
      memories := h.toMemoriesOk
      flags := State.flagsOk_of_launched (u := .qnt) h.status h.phase
      lengths := h.lengthsOk_of_launched (u := .qnt) h.status h.phase (congrArg BitVec.toNat h.ncol)
        (fun hc => let ⟨_, hcsblen, hgiflen⟩ := h.build hc; ⟨hgiflen, fun _ => hcsblen⟩)
      qnt := h.toQntOk
      frm := State.frmOk_of_phase (by omega)
      lzw := State.lzwOk_of_phase (by omega)
      chained :=
        { mincs := fun hc => (h.build hc).1
          image := h.image
          indices := by omega
          emitted := by omega
          stream := by omega } }

theorem State.LzwRuns.inv {s : State} (h : s.LzwRuns) : s.Inv := by
  obtain ⟨hlo, hhi⟩ := h.phase
  exact
    { params := h.params
      memories := h.toMemoriesOk
      flags := State.flagsOk_of_launched (u := .lzw) h.status h.phase
      lengths := h.lengthsOk_of_launched (u := .lzw) h.status h.phase (congrArg BitVec.toNat h.csblen)
        (fun hc => let ⟨_, hgiflen, _⟩ := h.build hc; ⟨hgiflen, by omega⟩)
      qnt := State.qntOk_of_phase (by omega)
      frm := State.frmOk_of_phase (by omega)
      lzw := h.toLzwOk
      chained :=
        { mincs := fun hc => (h.build hc).1
          image := fun hc _ => let ⟨_, _, hw, hh, _⟩ := h.build hc; ⟨hw, hh⟩
          indices := fun hc _ => let ⟨_, _, _, _, hlen⟩ := h.build hc; hlen
          emitted := fun hc h18 _ => h.emitted hc h18
          stream := by omega } }

theorem State.FrmRuns.inv {s : State} (h : s.FrmRuns) : s.Inv := by
  obtain ⟨hlo, hhi⟩ := h.phase
  exact
    { params := h.params
      memories := h.toMemoriesOk
      flags := State.flagsOk_of_launched (u := .frm) h.status h.phase
      lengths := h.lengthsOk_of_launched (u := .frm) h.status h.phase (congrArg BitVec.toNat h.giflen)
        (fun _ => ⟨h.giflen, by omega⟩)
      qnt := State.qntOk_of_phase (by omega)
      frm := h.toFrmOk
      lzw := State.lzwOk_of_phase (by omega)
      chained :=
        { mincs := fun hc => (h.build hc).1
          image := fun hc _ => let ⟨_, hw, hh, _⟩ := h.build hc; ⟨hw, hh⟩
          indices := by omega
          emitted := by omega
          stream := fun hc _ => let ⟨_, _, _, hcsblen⟩ := h.build hc; hcsblen } }

/-! ### The ends of a run -/

theorem Status.resting_completed (u : UnitName) : (Status.launched u).completed.Resting := by
  constructor <;> simp [Status.launched, Status.completed]

theorem Status.resting_failed (f : Status) (e : ErrName) : (f.failed e).Resting := by
  constructor <;> cases e <;> simp [Status.failed, ErrName.code]

/-- A run that completed leaves an idle machine (spec/40_commands.md R121). -/
theorem State.Bounded.inv_completed {s : State} {u : UnitName} (h : s.Bounded)
    (hs : s.status = (Status.launched u).completed) (hp : s.phase = phIdle) (hc : s.chain = false) : s.Inv :=
  { h with
    phase := hp
    chain := hc
    resting := hs ▸ Status.resting_completed u
    failed := by simp [hs, Status.completed, Status.launched] : s.Idles }.inv

/-- Error entry leaves an idle machine, the failing unit's length register being 0 (spec/60_exceptions.md R228). -/
theorem State.Bounded.inv_errorEntry {s : State} {u : UnitName} (h : s.Bounded) (hs : s.status = .launched u)
    (hz : s.ownLength u = 0) (e : ErrName) : (s.errorEntry e).Inv :=
  { h with
    phase := rfl
    chain := rfl
    resting := Status.resting_failed _ e
    failed := by
      intro v _ hv
      obtain rfl : u = v := UnitName.number_inj (by rw [← hv]; simp [hs, Status.failed, Status.launched])
      exact hz : (s.errorEntry e).Idles }.inv

end Sys2Proof.Machine
end

/-! ## The outside world's moves and the host's commands keep the invariant (spec/20_memory.md, spec/40_commands.md) -/

section
namespace Sys2Proof.Machine

/-! ### The model's own fields -/

/-- The dictionary of the LZW unit is in order (spec/10_state.md R51 (3), (5)). -/
abbrev State.TableOk (s : State) : Prop :=
  s.first ≤ s.next.toNat ∧ s.next.toNat ≤ maxEnt ∧ s.WidthOk ∧ s.DictOk

/-- Whether the dictionary is in order depends on PFX, SFX, NEXT, CW and MINCS only. -/
theorem State.TableOk.congr {s t : State} (h : s.TableOk) (hp : t.pfx = s.pfx) (hs : t.sfx = s.sfx)
    (hn : t.next = s.next) (hc : t.cw = s.cw) (hm : t.mincs = s.mincs) : t.TableOk := by
  obtain ⟨hfirst, hnext, hwidth, hdict⟩ := h
  have hf : t.first = s.first := by rw [State.first, State.clr, hm]; rfl
  exact ⟨by rw [hf, hn]; exact hfirst, by rw [hn]; exact hnext, by rw [State.WidthOk, hn, hc]; exact hwidth,
    DictOk_congr hdict hp hs hn hm⟩

/-- The invariant does not read the host's moves, the replies and the draws. -/
theorem State.Inv.outside {s : State} (h : s.Inv) (host : List HostMove) (replies : List Word) (draws : Nat) :
    { s with host := host, replies := replies, draws := draws }.Inv := by
  generalize ht : { s with host := host, replies := replies, draws := draws } = t
  rcases h.cases with hp | hq | hf | hl
  · have hidle : s.status.busy = false := by
      cases hb : s.status.busy
      · rfl
      · exact absurd hp (h.flags.busy_iff.1 hb)
    subst ht
    exact State.Idles.inv { h.idles hidle with }
  · subst ht
    exact State.QntRuns.inv { hq with }
  · subst ht
    exact State.FrmRuns.inv { hf with }
  · subst ht
    exact State.LzwRuns.inv { hl with
      tabled := fun h18 h20 => State.TableOk.congr (hl.tabled h18 h20) rfl rfl rfl rfl rfl }

theorem State.Inv.withHost {s : State} (h : s.Inv) (host : List HostMove) : { s with host := host }.Inv :=
  h.outside host s.replies s.draws

/-! ### Host accesses -/

theorem State.Inv.hostRead {s : State} (h : s.Inv) (sp : Space) (a : Nat) : (s.hostRead sp a).Inv := by
  unfold State.hostRead
  split
  · exact h.outside s.host _ s.draws
  · split
    · exact h.outside s.host _ _
    · exact h.outside s.host _ s.draws

/-- A configuration register may take any value between runs. -/
theorem State.Idles.writeReg {s : State} (h : s.Idles) (r : RegName) (v : Word) : (s.writeReg r v).Idles := by
  cases r
  case ie | width | height | pixlen | len | mincs => exact { h with }
  all_goals exact h

theorem State.Idles.writeOffset {s : State} (h : s.Idles) (a : Nat) (v : Word) : (s.writeOffset a v).Idles := by
  unfold State.writeOffset
  split
  · exact h.writeReg _ v
  · exact h

theorem State.Idles.writeData {s : State} (h : s.Idles) {sp : Space} {a : Nat} (ha : a < cellCount s.params sp)
    (b : Byte) : (s.writeData sp a b).Idles := by
  cases sp
  case pix =>
    exact { h with pix_wf := Memory.wf_put h.pix_wf a b, pix_within := Memory.within_put h.pix_within ha b }
  case pal =>
    exact { h with pal_wf := Memory.wf_put h.pal_wf a b, pal_within := Memory.within_put h.pal_within ha b }
  case idx =>
    exact { h with idx_wf := Memory.wf_put h.idx_wf a b, idx_within := Memory.within_put h.idx_within ha b }
  case csb =>
    exact { h with csb_wf := Memory.wf_put h.csb_wf a b, csb_within := Memory.within_put h.csb_within ha b }
  all_goals exact h

/-- A host write to a data space reaches an existing cell (spec/20_memory.md R62). -/
theorem addr_lt_of_legal_write {p : Params} {sp : Space} {a n : Nat} {v : Word} (hsp : sp ≠ .reg)
    (h : (HostAccess.memWrite sp a n v).legal p = true) : a < cellCount p sp := by
  cases sp <;> simp_all [HostAccess.legal]

theorem State.Inv.hostWrite {s : State} (h : s.Inv) {sp : Space} {a n : Nat} {v : Word}
    (hl : (HostAccess.memWrite sp a n v).legal s.params = true) : (s.hostWrite sp a v).Inv := by
  unfold State.hostWrite
  cases hb : s.status.busy
  · have hi := h.idles hb
    by_cases hsp : sp = .reg
    · simpa [hsp] using (hi.writeOffset a v).inv
    · simpa [hsp] using (hi.writeData (addr_lt_of_legal_write hsp hl) _).inv
  · exact h

/-! ### Commands -/

theorem State.Inv.accepted {s t u : State} (h : s.Inv) (hu : s.Idles → u.Inv) (ht : accepted s u = .next t) :
    t.Inv := by
  rcases accepted_next ht with ⟨_, rfl⟩ | ⟨hb, rfl⟩
  · exact h
  · exact hu (h.idles hb)

/-- A launched QNT has not begun (spec/40_commands.md R112, R113, R116). -/
theorem State.Bounded.qntRuns_launched {s : State} (h : s.Bounded) (chain : Bool) (hncol : s.ncol = 0)
    (hbuild : chain = true → s.mincs = gifMincs ∧ s.csblen = 0 ∧ s.giflen = 0) :
    (s.launch .qnt chain phQCheck).QntRuns :=
  { h, State.qntOk_of_phase (s := s.launch .qnt chain phQCheck) (.inl (by simp)) with
    status := rfl
    phase := ⟨by simp, by simp⟩
    ncol := hncol
    build := hbuild
    image := fun _ hp => absurd rfl hp }

theorem execQuant_keeps {s t : State} (h : s.Inv) (ht : execQuant s = .next t) : t.Inv := by
  refine h.accepted (fun hi => ?_) ht
  refine (State.Bounded.qntRuns_launched ?_ false rfl (by simp)).inv
  exact { hi with ncol_le := by simp }

theorem execBuild_keeps {s t : State} (h : s.Inv) (ht : execBuild s = .next t) : t.Inv := by
  refine h.accepted (fun hi => ?_) ht
  refine (State.Bounded.qntRuns_launched ?_ true rfl (fun _ => ⟨rfl, rfl, rfl⟩)).inv
  exact { hi with ncol_le := by simp, csblen_le := by simp, giflen_le := by simp }

theorem execLzw_keeps {s t : State} (h : s.Inv) (ht : execLzw s = .next t) : t.Inv := by
  refine h.accepted (fun hi => State.LzwRuns.inv ?_) ht
  exact
    { hi, State.lzwOk_of_phase (s := { s with csblen := 0 }.launch .lzw false phLCheck) (by simp) with
      status := rfl
      phase := ⟨by simp, by simp⟩
      csblen := rfl
      csblen_le := by simp
      build := by simp
      emitted := by simp }

theorem execFrame_keeps {s t : State} (h : s.Inv) (ht : execFrame s = .next t) : t.Inv := by
  refine h.accepted (fun hi => State.FrmRuns.inv ?_) ht
  exact
    { hi, State.frmOk_of_phase (s := { s with giflen := 0 }.launch .frm false phFCheck) (.inl (by simp)) with
      status := rfl
      phase := ⟨by simp, by simp⟩
      giflen := rfl
      giflen_le := by simp
      build := by simp }

theorem execClr_keeps {s t : State} (h : s.Inv) (ht : execClr s = .next t) : t.Inv := by
  refine h.accepted (fun hi => State.Idles.inv ?_) ht
  exact
    { hi with
      resting := ⟨hi.resting.idle, by simp [Status.cleared], fun _ => rfl, by simp [Status.cleared]⟩
      failed := by simp [Status.cleared] }

theorem execReserved_keeps {s t : State} (h : s.Inv) (zero : BitVec 24) (op : BitVec 8)
    (ht : execReserved zero op s = .next t) : t.Inv := by
  refine h.accepted (fun hi => State.Idles.inv ?_) ht
  exact
    { hi with
      resting := ⟨hi.resting.idle, by simp [Status.badCommand], by simp [Status.badCommand],
        by simp [Status.badCommand, ErrName.code]⟩
      failed := by
        intro u _ hu
        cases u <;> exact absurd hu (by simp [Status.badCommand, UnitName.number]) }

theorem Status.resting_atReset : Status.atReset.Resting := by
  constructor <;> simp [Status.atReset]

theorem execSrst_keeps {s t : State} (h : s.Inv) (ht : execSrst s = .next t) : t.Inv := by
  refine h.accepted (fun hi => State.Idles.inv ?_) ht
  exact
    { hi with
      phase := rfl
      chain := rfl
      resting := Status.resting_atReset
      failed := by simp [Status.atReset]
      csblen_le := by simp
      giflen_le := by simp
      ncol_le := by simp }

/-- The commands a word can stand for (spec/30_encoding.md R81, R82). -/
theorem decodeCommand_cases (w : Word) :
    decodeCommand w ∈ [Instr.nop, .quant, .frame, .lzw, .build, .clr, .srst] ∨
      ∃ zero op, decodeCommand w = .reserved zero op := by
  rw [decodeCommand_eq]
  split_ifs <;> simp

theorem exec_command_keeps {s t : State} (h : s.Inv) (w : Word) (ht : exec (decodeCommand w) s = .next t) : t.Inv := by
  rcases decodeCommand_cases w with hw | ⟨zero, op, hw⟩
  · generalize decodeCommand w = i at *
    simp only [List.mem_cons, List.not_mem_nil, or_false] at hw
    rcases hw with rfl | rfl | rfl | rfl | rfl | rfl | rfl
    · exact h.accepted (fun _ => h) ht
    · exact execQuant_keeps h ht
    · exact execFrame_keeps h ht
    · exact execLzw_keeps h ht
    · exact execBuild_keeps h ht
    · exact execClr_keeps h ht
    · exact execSrst_keeps h ht
  · rw [hw] at ht
    exact execReserved_keeps h zero op ht

theorem hostAccess_keeps {s t : State} (h : s.Inv) (a : HostAccess) (ht : hostAccess a s = .next t) : t.Inv := by
  unfold hostAccess at ht
  by_cases hl : a.legal s.params = true
  · rw [if_pos hl] at ht
    cases a with
    | memRead sp addr n =>
      cases ht
      exact h.hostRead sp addr
    | memWrite sp addr n v =>
      dsimp only at ht
      split at ht
      · exact exec_command_keeps h v ht
      · cases ht
        exact h.hostWrite hl
  · rw [if_neg hl] at ht
    cases ht

/-! ### Reset -/

theorem State.Inv.hardReset {s : State} (h : s.Inv) : s.hardReset.Inv := by
  refine State.Idles.inv ?_
  exact
    { params := h.params
      csblen_le := by simp [State.hardReset, State.reset]
      giflen_le := by simp [State.hardReset, State.reset]
      ncol_le := by simp [State.hardReset, State.reset]
      phase := rfl
      chain := rfl
      resting := Status.resting_atReset
      failed := by simp [State.hardReset, State.reset]
      pix_wf := Memory.wf_unwritten _
      smp_wf := Memory.wf_unwritten _
      pal_wf := Memory.wf_unwritten _
      idx_wf := Memory.wf_unwritten _
      pfx_wf := Memory.wf_unwritten _
      sfx_wf := Memory.wf_unwritten _
      csb_wf := Memory.wf_unwritten _
      gif_wf := Memory.wf_unwritten _
      pix_within := Memory.within_unwritten _ _
      smp_within := Memory.within_unwritten _ _
      pal_within := Memory.within_unwritten _ _
      idx_within := Memory.within_unwritten _ _
      pfx_within := Memory.within_unwritten _ _
      sfx_within := Memory.within_unwritten _ _
      csb_within := Memory.within_unwritten _ _
      gif_within := Memory.within_unwritten _ _ }

end Sys2Proof.Machine
end

/-! ## QNT keeps the invariant (spec/41_quantizer.md R131 to R144) -/

section
namespace Sys2Proof.Machine

/-! ### How many samples and how many colours there are -/

/-- STRIDE: floor(n / 50000) is at least 2 where it is used (spec/41_quantizer.md R133). -/
theorem sampleStride_cases (n : Nat) :
    (n ≤ 100000 ∧ sampleStride n = 1) ∨ (100000 < n ∧ sampleStride n = n / 50000) := by
  by_cases h : 100000 < n
  · exact .inr ⟨h, if_pos h⟩
  · exact .inl ⟨by omega, if_neg h⟩

/-- SMP has room for the sample of any image (spec/41_quantizer.md R133, R134). -/
theorem sampleCount_le (n : Nat) : sampleCount n ≤ 100000 := by
  unfold sampleCount ceilDiv
  rcases sampleStride_cases n with ⟨hn, hs⟩ | ⟨hn, hs⟩ <;> rw [hs]
  · omega
  · have hq : 2 ≤ n / 50000 := by omega
    have hlt : n < 50000 * (n / 50000) + 50000 := by omega
    generalize n / 50000 = q at *
    exact Nat.le_of_lt_succ ((Nat.div_lt_iff_lt_mul (by omega)).2 (by omega))

/-- The STRIDE of any image fits its register (spec/00_scope.md R12). -/
theorem sampleStride_lt {n : Nat} (h : n < 2 ^ 30) : sampleStride n < 2 ^ 17 := by
  rcases sampleStride_cases n with ⟨hn, hs⟩ | ⟨hn, hs⟩ <;> omega

/-- The cut gives at least one colour and at most 2 ^ depth (spec/41_quantizer.md R141). -/
theorem cut_length_bounds (d : Nat) (B : List Colour) : 1 ≤ (cut d B).length ∧ (cut d B).length ≤ 2 ^ d := by
  induction d generalizing B with
  | zero => simp [cut]
  | succ d ih =>
    unfold cut
    split
    · simp [Nat.one_le_two_pow]
    · dsimp only
      rw [List.length_append]
      obtain ⟨hlo, hle⟩ := ih ((sortedBy B (widest B)).take ((sortedBy B (widest B)).length / 2))
      obtain ⟨-, hle'⟩ := ih ((sortedBy B (widest B)).drop ((sortedBy B (widest B)).length / 2))
      rw [Nat.pow_succ]
      omega

/-! ### The steps -/

variable {s t : State}

/-- QNT raises only in Q_CHECK, once COUNT is written (spec/41_quantizer.md R131). -/
theorem State.QntRuns.inv_errorEntry (h : s.QntRuns) (e : ErrName) : (s.counted.errorEntry e).Inv :=
  State.Bounded.inv_errorEntry (s := s.counted) (u := .qnt) { h with } h.status (congrArg BitVec.toNat h.ncol) e

theorem State.QntRuns.qCheck (h : s.QntRuns) (ht : execQCheck s = .next t) : t.Inv := by
  rcases execQCheck_cases s with ⟨-, e⟩ | ⟨-, -, e⟩ | ⟨-, -, -, e⟩ | ⟨hpos, hmax, hlen, e⟩ <;>
    (rw [e] at ht; cases ht)
  · exact h.inv_errorEntry .empty
  · exact h.inv_errorEntry .resource
  · exact h.inv_errorEntry .shape
  · obtain ⟨hcap, -⟩ := h.caps
    have hcount : (BitVec.ofNat 32 s.pixelCount).toNat = s.pixelCount := Nat.mod_eq_of_lt (by omega)
    have hdim : s.width ≠ 0 ∧ s.height ≠ 0 := by
      constructor <;> intro h0 <;> exact hpos (by simp [State.pixelCount, h0])
    refine State.QntRuns.inv { h with
      phase := ⟨by simp, by simp⟩
      image := fun _ _ => hdim
      counted := fun _ _ => ?_
      sampled := by simp
      coloured := by simp
      position := by simp }
    change _ = s.pixelCount ∧ 1 ≤ BitVec.toNat _ ∧ BitVec.toNat _ ≤ _ ∧ _ = 4 * BitVec.toNat _
    rw [hcount]
    exact ⟨rfl, by omega, hmax, hlen⟩

theorem State.QntRuns.qSample (h : s.QntRuns) (hp : s.phase = phQSample) (ht : execQSample s = .next t) : t.Inv := by
  obtain ⟨hmax, rfl⟩ := ifCells_next ht
  obtain ⟨hcap, -⟩ := h.caps
  have hroom := sampleCount_le s.count.toNat
  refine State.QntRuns.inv { h with
    phase := ⟨by simp, by simp⟩
    image := fun hc _ => h.image hc (by simp [hp])
    counted := fun _ _ => h.counted (by simp [hp]) (by simp [hp])
    sampled := fun _ => ⟨Nat.mod_eq_of_lt (by omega), Nat.mod_eq_of_lt (sampleStride_lt (by omega))⟩
    coloured := by simp
    position := by simp
    smp_wf := Memory.wf_putList h.smp_wf _ _
    smp_within := Memory.within_putList h.smp_within _ ?_ }
  rw [State.samples, List.length_map, List.length_range, Nat.zero_add]
  exact hroom

theorem State.QntRuns.qCut (h : s.QntRuns) (hp : s.phase = phQCut) (ht : execQCut s = .next t) : t.Inv := by
  obtain ⟨-, rfl⟩ := ifCells_next ht
  obtain ⟨hlo, hhi⟩ := cut_length_bounds cutDepth s.bucket
  have h256 : (cut cutDepth s.bucket).length ≤ 256 := hhi
  have hncolw : (BitVec.ofNat 9 (cut cutDepth s.bucket).length).toNat = (cut cutDepth s.bucket).length :=
    Nat.mod_eq_of_lt (by omega)
  refine State.QntRuns.inv { h with
    phase := ⟨by simp, by simp⟩
    image := fun hc _ => h.image hc (by simp [hp])
    counted := fun _ _ => h.counted (by simp [hp]) (by simp [hp])
    sampled := by simp
    coloured := fun _ => ⟨hncolw.symm ▸ hlo, hncolw.symm ▸ hhi⟩
    position := by simp
    pal_wf := Memory.wf_putList h.pal_wf _ _
    pal_within := Memory.within_putList h.pal_within _ ?_
    smp_wf := Memory.wf_unwritten _
    smp_within := Memory.within_unwritten _ _ }
  rw [paletteBytes_length]
  change 0 + 3 * (cut cutDepth s.bucket).length ≤ 768
  omega

theorem State.QntRuns.qPad (h : s.QntRuns) (hp : s.phase = phQPad) (ht : execQPad s = .next t) : t.Inv := by
  cases ht
  obtain ⟨hlo, hhi⟩ := h.coloured (.inl hp)
  obtain ⟨hcount, hcount1, hrest⟩ := h.counted (by simp [hp]) (by simp [hp])
  refine State.QntRuns.inv { h with
    phase := ⟨by simp, by simp⟩
    image := fun hc _ => h.image hc (by simp [hp])
    counted := fun _ _ => ⟨hcount, hcount1, hrest⟩
    sampled := by simp
    coloured := fun _ => ⟨hlo, hhi⟩
    position := fun _ => hcount1
    pal_wf := Memory.wf_putList h.pal_wf _ _
    pal_within := Memory.within_putList h.pal_within _ ?_ }
  rw [paletteBytes_length, List.length_replicate]
  change 3 * s.ncolw.toNat + 3 * (256 - s.ncolw.toNat) ≤ 768
  change s.ncolw.toNat ≤ 256 at hhi
  omega

/-- Q_MAP's pixel leaves the indices in order. -/
theorem State.QntRuns.mapped_bounded (h : s.QntRuns) (hpos : s.pos.toNat < s.params.maxPix) : s.mapped.Bounded :=
  { h with
    idx_wf := Memory.wf_put h.idx_wf _ _
    idx_within := Memory.within_put h.idx_within hpos _ }

/-- Q_MAP's last pixel: alone it leaves an idle machine, under BUILD it launches LZW (spec/41_quantizer.md R144). -/
theorem State.QntRuns.finishQnt (h : s.QntRuns) (hp : s.phase = phQMap) (hpos : s.pos.toNat < s.params.maxPix) :
    s.mapped.finishQnt.Inv := by
  have hm := h.mapped_bounded hpos
  obtain ⟨-, hncolw⟩ := h.coloured (.inr hp)
  obtain ⟨-, hcount1, hcount, -⟩ := h.counted (by simp [hp]) (by simp [hp])
  cases hc : s.chain
  · rw [finishQnt_alone (s := s.mapped) hc]
    exact State.Bounded.inv_completed (u := .qnt)
      { hm with
        ncol_le := hncolw
        idx_wf := Memory.wf_forgetFrom hm.idx_wf _ _ _
        idx_within := Memory.within_forgetFrom hm.idx_within _ _ _ }
      (congrArg Status.completed h.status) rfl rfl
  · rw [finishQnt_chained (s := s.mapped) hc]
    obtain ⟨hmincs, hcsblen, hgiflen⟩ := h.build hc
    obtain ⟨hw, hh⟩ := h.image hc (by simp [hp])
    exact State.LzwRuns.inv
      { hm with
        toLzwOk := State.lzwOk_of_phase (by simp)
        ncol_le := hncolw
        status := congrArg (Status.chainedTo · .lzw) h.status
        phase := ⟨by simp, by simp⟩
        csblen := hcsblen
        build := fun _ => ⟨hmincs, hgiflen, hw, hh, hcount1, hcount⟩
        emitted := by simp }

theorem State.QntRuns.qMap (h : s.QntRuns) (hp : s.phase = phQMap) (ht : execQMap s = .next t) : t.Inv := by
  obtain ⟨hpos, ⟨-, rfl⟩ | ⟨hmore, rfl⟩⟩ := execQMap_next ht
  · exact h.finishQnt hp hpos
  · obtain ⟨hcap, -⟩ := h.caps
    have hnext : (s.pos + 1).toNat = s.pos.toNat + 1 := toNat_succ _ (by omega)
    have hlt := h.position hp
    refine State.QntRuns.inv { h.mapped_bounded hpos, h with position := fun _ => ?_ }
    have hne : (s.pos + 1).toNat ≠ s.count.toNat := fun e => hmore (BitVec.eq_of_toNat_eq e)
    change (s.pos + 1).toNat < s.count.toNat
    omega

end Sys2Proof.Machine
end

/-! ## FRM keeps the invariant (spec/42_gif_framer.md R161 to R167) -/

section
namespace Sys2Proof.Machine

variable {s t : State}

theorem one_le_toNat {v : BitVec 32} (h : v ≠ 0) : 1 ≤ v.toNat := by bv_omega

/-- A framer step's bytes: GPTR goes up by their number, GIF stays in order (spec/42_gif_framer.md R168). -/
theorem State.Bounded.putGs_cases (h : s.Bounded) {bytes : List Byte}
    (hroom : s.gptr.toNat + bytes.length ≤ s.params.gifCap) :
    ∃ gif gptr, s.putGs bytes = { s with gif := gif, gptr := gptr } ∧ gif.wf ∧ gif.within s.params.gifCap ∧
      gptr.toNat = s.gptr.toNat + bytes.length := by
  obtain ⟨-, -, hcap⟩ := h.caps
  exact ⟨_, _, State.putGs_eq s bytes, State.putGs_gif_wf h.gif_wf bytes,
    State.putGs_gif_within h.gif_within bytes hroom hcap, State.putGs_gptr s bytes (by omega)⟩

/-- What a step that writes bytes to GIF leaves. -/
theorem State.Bounded.frameStep_cases (h : s.Bounded) {bytes : List Byte} {p : BitVec 5}
    (ht : s.frameStep bytes p = .next t) :
    ∃ gif gptr, t = { s with gif := gif, gptr := gptr, phase := p } ∧ gif.wf ∧ gif.within s.params.gifCap ∧
      gptr.toNat = s.gptr.toNat + bytes.length := by
  obtain ⟨hroom, rfl⟩ := frameStep_next ht
  obtain ⟨gif, gptr, e, hgif⟩ := h.putGs_cases hroom
  exact ⟨gif, gptr, by rw [e], hgif⟩

theorem State.FrmRuns.inv_errorEntry (h : s.FrmRuns) (e : ErrName) : (s.errorEntry e).Inv :=
  h.toBounded.inv_errorEntry (u := .frm) h.status (congrArg BitVec.toNat h.giflen) e

/-- Where the layout of spec/30_encoding.md R89 puts GPTR in a phase after F_CHECK. -/
def frameOffset (pos csblen : Nat) (p : BitVec 5) : Nat :=
  if p = phFHead then 0
  else if p = phFGct then 13
  else if p = phFGce then 781
  else if p = phFImg then 789
  else if p = phFData then 800 + pos + pos / subBlkMax
  else 800 + csblen + ceilDiv csblen subBlkMax

/-- FRM's registers are in order when its checks hold and GPTR stands where the layout puts it. -/
theorem State.frmOk_of_offset
    (checked : s.mincs = gifMincs ∧ s.width ≠ 0 ∧ s.height ≠ 0 ∧ 1 ≤ s.csblen.toNat ∧
      gifLength s.csblen.toNat ≤ s.params.gifCap)
    (offset : s.gptr.toNat = frameOffset s.pos.toNat s.csblen.toNat s.phase)
    (data : s.phase = phFData → s.pos.toNat < s.csblen.toNat ∧ s.pos.toNat % subBlkMax = 0) : s.FrmOk where
  checked _ _ := checked
  at_head e := BitVec.eq_of_toNat_eq (by rw [offset, e]; rfl)
  at_gct e := BitVec.eq_of_toNat_eq (by rw [offset, e]; rfl)
  at_gce e := BitVec.eq_of_toNat_eq (by rw [offset, e]; rfl)
  at_img e := BitVec.eq_of_toNat_eq (by rw [offset, e]; rfl)
  at_data e := ⟨(data e).1, (data e).2, by rw [offset, e]; rfl⟩
  at_trail e := by rw [offset, e]; rfl

theorem State.FrmRuns.fCheck (h : s.FrmRuns) (ht : execFCheck s = .next t) : t.Inv := by
  rcases execFCheck_cases s with ⟨-, e⟩ | ⟨-, -, e⟩ | ⟨-, -, -, e⟩ | ⟨hmincs, hdim, hcap, e⟩ <;>
    (rw [e] at ht; cases ht)
  · exact h.inv_errorEntry .config
  · exact h.inv_errorEntry .empty
  · exact h.inv_errorEntry .resource
  · simp only [not_or] at hdim
    obtain ⟨hw, hh, hc⟩ := hdim
    have hlen := one_le_toNat hc
    exact State.FrmRuns.inv { h with
      phase := ⟨by simp, by simp⟩
      toFrmOk := State.frmOk_of_offset ⟨hmincs, hw, hh, hlen, hcap⟩ rfl (by simp) }

/-- A step that writes bytes to GIF and leaves GPTR where the layout wants it in the next phase. -/
theorem State.FrmRuns.frameStep (h : s.FrmRuns) (h9 : 9 ≤ s.phase.toNat) (pos : BitVec 32) {bytes : List Byte}
    {p : BitVec 5} (ht : { s with pos := pos }.frameStep bytes p = .next t) (hp : 9 ≤ p.toNat ∧ p.toNat ≤ 14)
    (hoffset : s.gptr.toNat + bytes.length = frameOffset pos.toNat s.csblen.toNat p)
    (hdata : p = phFData → pos.toNat < s.csblen.toNat ∧ pos.toNat % subBlkMax = 0) : t.Inv := by
  obtain ⟨gif, gptr, rfl, hwf, hwithin, hgptr⟩ :=
    State.Bounded.frameStep_cases (s := { s with pos := pos }) { h with } ht
  exact State.FrmRuns.inv { h with
    gif_wf := hwf
    gif_within := hwithin
    phase := ⟨by change 8 ≤ p.toNat; omega, hp.2⟩
    toFrmOk := State.frmOk_of_offset (h.checked h9 h.phase.2) (hgptr.trans hoffset) hdata }

theorem State.FrmRuns.fHead (h : s.FrmRuns) (hp : s.phase = phFHead) (ht : execFHead s = .next t) : t.Inv :=
  h.frameStep (by simp [hp]) s.pos ht (by decide) (by rw [h.at_head hp]; rfl) (by simp)

theorem State.FrmRuns.fGct (h : s.FrmRuns) (hp : s.phase = phFGct) (ht : execFGct s = .next t) : t.Inv := by
  refine h.frameStep (by simp [hp]) s.pos ht (by decide) ?_ (by simp)
  rw [h.at_gct hp, State.gctBytes, List.length_map, List.length_range]
  rfl

theorem State.FrmRuns.fGce (h : s.FrmRuns) (hp : s.phase = phFGce) (ht : execFGce s = .next t) : t.Inv :=
  h.frameStep (by simp [hp]) s.pos ht (by decide) (by rw [h.at_gce hp]; rfl) (by simp)

theorem State.FrmRuns.fImg (h : s.FrmRuns) (hp : s.phase = phFImg) (ht : execFImg s = .next t) : t.Inv := by
  obtain ⟨-, -, -, hlen, -⟩ := h.checked (by simp [hp]) (by simp [hp])
  exact h.frameStep (by simp [hp]) 0 ht (by decide) (by rw [h.at_img hp]; rfl) (fun _ => ⟨hlen, rfl⟩)

/-- A sub-block's length byte and its data (spec/42_gif_framer.md R166). -/
theorem State.subBlock_length (s : State) : s.subBlock.length = s.subBlockLen + 1 := by
  simp [State.subBlock]

/-- ceil((255 k + n) / 255) for a last sub-block of n bytes (spec/30_encoding.md R97). -/
theorem ceilDiv_last_block {pos n : Nat} (hmod : pos % 255 = 0) (h1 : 1 ≤ n) (h255 : n ≤ 255) :
    ceilDiv (pos + n) 255 = pos / 255 + 1 := by
  unfold ceilDiv
  omega

theorem State.FrmRuns.fData (h : s.FrmRuns) (hp : s.phase = phFData) (ht : execFData s = .next t) : t.Inv := by
  obtain ⟨hlt, hmod, hgptr⟩ := h.at_data hp
  simp only [subBlkMax] at hmod hgptr
  have hn : s.subBlockLen = min 255 (s.csblen.toNat - s.pos.toNat) := rfl
  have hbytes := s.subBlock_length
  have hpos : (s.pos + BitVec.ofNat 32 s.subBlockLen).toNat = s.pos.toNat + s.subBlockLen := by
    have := s.csblen.isLt
    rw [BitVec.toNat_add, BitVec.toNat_ofNat]
    omega
  unfold execFData at ht
  dsimp only at ht
  generalize s.pos + BitVec.ofNat 32 s.subBlockLen = pos at *
  split at ht
  · by_cases hlast : pos = s.csblen
    · rw [if_pos hlast] at ht
      refine h.frameStep (by simp [hp]) pos ht (by decide) ?_ (by simp)
      change _ = 800 + s.csblen.toNat + ceilDiv s.csblen.toNat 255
      rw [← hlast, hpos, ceilDiv_last_block hmod (by omega) (by omega)]
      omega
    · rw [if_neg hlast] at ht
      have hne : pos.toNat ≠ s.csblen.toNat := fun e => hlast (BitVec.eq_of_toNat_eq e)
      refine h.frameStep (by simp [hp]) pos ht (by simp [hp]) ?_ (fun _ => ?_)
      · rw [hp]
        change _ = 800 + pos.toNat + pos.toNat / 255
        omega
      · simp only [subBlkMax]
        omega
  · cases ht

/-- FRM's end: an idle machine, GIFLEN the number of bytes written (spec/42_gif_framer.md R167). -/
theorem State.Bounded.finishFrm_inv (h : s.Bounded) (hs : s.status = .launched .frm)
    (hgptr : s.gptr.toNat ≤ s.params.gifCap) : s.finishFrm.Inv := by
  cases hc : s.chain
  · rw [finishFrm_alone hc]
    exact State.Bounded.inv_completed (u := .frm)
      { h with
        giflen_le := hgptr
        gif_wf := Memory.wf_forgetFrom h.gif_wf _ _ _
        gif_within := Memory.within_forgetFrom h.gif_within _ _ _ }
      (congrArg Status.completed hs) rfl rfl
  · rw [finishFrm_chained hc]
    exact State.Bounded.inv_completed (u := .frm)
      { h with
        giflen_le := hgptr
        gif_wf := Memory.wf_forgetFrom h.gif_wf _ _ _
        gif_within := Memory.within_forgetFrom h.gif_within _ _ _
        idx_wf := Memory.wf_forgetFrom h.idx_wf _ _ _
        idx_within := Memory.within_forgetFrom h.idx_within _ _ _ }
      (congrArg Status.completed hs) rfl rfl

theorem State.FrmRuns.fTrail (h : s.FrmRuns) (ht : execFTrail s = .next t) : t.Inv := by
  obtain ⟨hroom, rfl⟩ := ifCells_next ht
  obtain ⟨gif, gptr, e, hwf, hwithin, hgptr⟩ := h.toBounded.putGs_cases (bytes := [0x00, trailer]) hroom
  rw [e]
  exact State.Bounded.finishFrm_inv { h with gif_wf := hwf, gif_within := hwithin } h.status (hgptr.trans_le hroom)

end Sys2Proof.Machine
end

/-! ## LZW keeps the invariant (spec/43_lzw.md R186 to R194) -/

section
namespace Sys2Proof.Machine

variable {s t : State}

/-! ### The output stream -/

/-- The bit buffer and CSB are in order (spec/10_state.md R51 (1)). -/
structure State.StreamOk (s : State) : Prop where
  cap : s.params.csbCap < 2 ^ 32
  csb_wf : s.csb.wf
  csb_within : s.csb.within s.params.csbCap
  buffer : s.BufferOk
  optr_le : s.optr.toNat ≤ s.params.csbCap

/-- EmitCode keeps the stream in order; a code of 8 bits or more fills a byte (spec/43_lzw.md R183). -/
theorem State.StreamOk.emit (h : s.StreamOk) {c n : Nat} (hfits : c < 2 ^ n ∧ n ≤ 12) (ht : emitCode c n s = .ok t) :
    ∃ csb optr acc nbits, t = { s with csb := csb, optr := optr, acc := acc, nbits := nbits } ∧ t.StreamOk ∧
      s.optr.toNat + n / 8 ≤ optr.toNat := by
  rcases emitCode_spec c n s h.buffer.1 h.buffer.2 hfits.2 hfits.1 h.cap h.optr_le with
    ⟨-, u, hu, he⟩ | ⟨-, he⟩
  · obtain rfl : u = t := Except.ok.inj (hu.symm.trans ht)
    have hparams : u.params = s.params := by rw [he.frame]
    refine ⟨u.csb, u.optr, u.acc, u.nbits, he.frame, ?_, ?_⟩
    · exact
        { cap := by rw [hparams]; exact h.cap
          csb_wf := he.wf h.csb_wf
          csb_within := by rw [hparams]; exact he.within h.csb_within
          buffer := ⟨by rw [he.nbits]; omega, he.acc_lt⟩
          optr_le := by rw [hparams]; exact he.optr_le }
    · rw [he.optr]
      omega
  · cases he.symm.trans ht

/-- The flush keeps CSB in order (spec/43_lzw.md R194). -/
theorem State.StreamOk.flush (h : s.StreamOk) (ht : flushAcc s = .ok t) :
    ∃ csb optr acc nbits, t = { s with csb := csb, optr := optr, acc := acc, nbits := nbits } ∧ csb.wf ∧
      csb.within s.params.csbCap ∧ s.optr.toNat ≤ optr.toNat ∧ optr.toNat ≤ s.params.csbCap := by
  rcases flushAcc_spec s h.optr_le h.cap with ⟨u, hu, hframe, hge, hle, hwf, hwithin⟩ | he
  · obtain rfl : u = t := Except.ok.inj (hu.symm.trans ht)
    exact ⟨u.csb, u.optr, u.acc, u.nbits, hframe, hwf h.csb_wf, hwithin h.csb_within, hge, hle⟩
  · cases he.symm.trans ht

/-! ### The dictionary -/

/-- W is a code of the table and no control code (spec/10_state.md R51 (4)). -/
abbrev State.PendingOk (s : State) : Prop := s.w.toNat < s.next.toNat ∧ s.w.toNat ≠ s.clr ∧ s.w.toNat ≠ s.eoi

theorem State.TableOk.next_le (h : s.TableOk) : s.next.toNat ≤ maxEnt := h.2.1

/-- A code of the table fits the code width (spec/10_state.md R51 (3)). -/
theorem State.TableOk.code_fits (h : s.TableOk) {c : Nat} (hc : c < s.next.toNat) :
    c < 2 ^ s.cw.toNat ∧ s.cw.toNat ≤ 12 := by
  obtain ⟨-, hnext, hwidth, -⟩ := h
  exact ⟨Nat.lt_of_le_of_lt (by omega) hwidth.2.2, cw_le_of_width hnext hwidth⟩

/-- The control codes lie below every entry (spec/10_state.md R38). -/
theorem State.TableOk.control_lt (h : s.TableOk) : s.clr < s.next.toNat ∧ s.eoi < s.next.toNat := by
  have hfirst : s.clr + 2 ≤ s.next.toNat := h.1
  have heoi : s.eoi = s.clr + 1 := rfl
  omega

theorem State.seed_tableOk (h2 : 2 ≤ s.mincs.toNat) (h8 : s.mincs.toNat ≤ 8) : s.seed.TableOk := by
  obtain ⟨hnext, -, hfirst, -, hwidth, hdict⟩ := seed_spec s h2 h8
  exact ⟨hnext.ge, by rw [hnext, maxEnt]; omega, hwidth, hdict⟩

/-- A literal may always stand in W. -/
theorem pendingOk_of_literal {k : Byte} (hw : s.w = k.setWidth 12) (hk : k.toNat < s.clr)
    (hfirst : s.first ≤ s.next.toNat) : s.PendingOk := by
  have hwk : s.w.toNat = k.toNat := by rw [hw]; exact BitVec.toNat_setWidth_of_le (by decide)
  have hf : s.first = s.clr + 2 := rfl
  have he : s.eoi = s.clr + 1 := rfl
  refine ⟨?_, ?_, ?_⟩ <;> omega

/-- NEXT after an insertion (spec/43_lzw.md R191). -/
theorem State.insertEntry_next_toNat (hroom : s.next.toNat < maxEnt) : s.insertEntry.next.toNat = s.next.toNat + 1 := by
  rw [maxEnt] at hroom
  rw [State.insertEntry_next]
  bv_omega

/-- The growth of CW keeps it the width of the largest code (spec/43_lzw.md R191, spec/10_state.md R51 (3)). -/
theorem State.insertEntry_widthOk (h : s.WidthOk) (hroom : s.next.toNat < maxEnt) : s.insertEntry.WidthOk := by
  obtain ⟨hone, hlo, hhi⟩ := h
  have hnext := State.insertEntry_next_toNat hroom
  have hpow : 2 ^ s.cw.toNat = 2 * 2 ^ (s.cw.toNat - 1) := by rw [← pow_succ', Nat.sub_add_cancel hone]
  unfold State.WidthOk
  rw [hnext, State.insertEntry_cw, Nat.add_sub_cancel]
  split
  · rename_i hgrow
    have hcw : (s.cw + 1).toNat = s.cw.toNat + 1 := by
      have := hgrow.2
      rw [maxCw] at this
      bv_omega
    rw [hcw, Nat.add_sub_cancel, pow_succ]
    omega
  · rename_i hstay
    refine ⟨hone, by omega, ?_⟩
    by_cases hcw : s.cw.toNat < maxCw
    · omega
    · rw [maxEnt] at hroom
      have : 2 ^ 12 ≤ 2 ^ s.cw.toNat := Nat.pow_le_pow_right (by omega) (Nat.le_of_not_lt hcw)
      omega

theorem State.insertEntry_pfxAt (s : State) (c : Nat) :
    s.insertEntry.pfxAt c = if c = s.next.toNat then s.w else s.pfxAt c := Memory.read_put _ _ _ _ _

theorem State.insertEntry_sfxAt (s : State) (c : Nat) :
    s.insertEntry.sfxAt c = if c = s.next.toNat then s.k else s.sfxAt c := Memory.read_put _ _ _ _ _

/-- The new entry keeps the dictionary in order: it is not a pair the table holds (spec/43_lzw.md R191, spec/10_state.md
R51 (5)). -/
theorem State.insertEntry_dictOk (h : s.DictOk) (hroom : s.next.toNat < maxEnt) (hw : s.PendingOk)
    (hk : s.k.toNat < s.clr) (hnew : s.lookup s.w s.k = none) : s.insertEntry.DictOk := by
  have hnext := State.insertEntry_next_toNat hroom
  have hfirst : s.insertEntry.first = s.first := rfl
  have hclr : s.insertEntry.clr = s.clr := rfl
  have heoi : s.insertEntry.eoi = s.eoi := rfl
  have hold : ∀ c, c < s.next.toNat + 1 → c ≠ s.next.toNat → c < s.next.toNat := by omega
  constructor <;> simp only [hnext, hfirst, hclr, heoi, State.insertEntry_pfxAt, State.insertEntry_sfxAt]
  case prefix_lt =>
    intro c h1 h2
    split
    · rename_i hc
      exact hc ▸ hw.1
    · exact h.prefix_lt c h1 (hold c h2 ‹_›)
  case prefix_not_control =>
    intro c h1 h2
    split
    · exact hw.2
    · exact h.prefix_not_control c h1 (hold c h2 ‹_›)
  case byte_lt =>
    intro c h1 h2
    split
    · exact hk
    · exact h.byte_lt c h1 (hold c h2 ‹_›)
  case distinct =>
    intro c d hc1 hc2 hd1 hd2 hp hs
    by_cases hc : c = s.next.toNat <;> by_cases hd : d = s.next.toNat
    · exact hc.trans hd.symm
    · rw [if_pos hc, if_neg hd] at hp hs
      exact absurd ⟨hp.symm, hs.symm⟩ (lookup_none hnew d hd1 (hold d hd2 hd))
    · rw [if_neg hc, if_pos hd] at hp hs
      exact absurd ⟨hp, hs⟩ (lookup_none hnew c hc1 (hold c hc2 hc))
    · rw [if_neg hc, if_neg hd] at hp hs
      exact h.distinct c d hc1 (hold c hc2 hc) hd1 (hold d hd2 hd) hp hs

theorem State.TableOk.insertEntry (h : s.TableOk) (hroom : s.next.toNat < maxEnt) (hw : s.PendingOk)
    (hk : s.k.toNat < s.clr) (hnew : s.lookup s.w s.k = none) : s.insertEntry.TableOk := by
  obtain ⟨hfirst, -, hwidth, hdict⟩ := h
  have hnext := State.insertEntry_next_toNat hroom
  exact ⟨hnext ▸ Nat.le_succ_of_le hfirst, hnext ▸ hroom, State.insertEntry_widthOk hwidth hroom,
    State.insertEntry_dictOk hdict hroom hw hk hnew⟩

/-! ### Symbols -/

theorem readSymbol_next {i : Nat} (h : readSymbol i s = .ok t) :
    t = { s with k := s.idxAt i } ∧ (s.idxAt i).toNat < s.clr := by
  rcases readSymbol_cases i s with ⟨-, hk, e⟩ | ⟨-, -, e⟩ | ⟨-, e⟩ <;> cases e.symm.trans h
  exact ⟨rfl, hk⟩

theorem consumeSymbol_next (h : consumeSymbol s = .ok t) :
    t = s.consumed ∧ (s.idxAt s.pos.toNat).toNat < s.clr := by
  rcases consumeSymbol_cases s with ⟨-, hk, e⟩ | ⟨-, -, e⟩ | ⟨-, e⟩ <;> cases e.symm.trans h
  exact ⟨rfl, hk⟩

/-! ### The registers of LZW in its phases -/

theorem State.LzwRuns.streamOk (h : s.LzwRuns) (h18 : 18 ≤ s.phase.toNat) : s.StreamOk := by
  obtain ⟨hnbits, hacc, hoptr⟩ := h.buffered h18 h.phase.2
  obtain ⟨-, hcap, -⟩ := h.caps
  exact ⟨hcap, h.csb_wf, h.csb_within, ⟨hnbits, hacc⟩, hoptr⟩

/-- What holds of the registers of LZW in L_LOOP (spec/10_state.md R51). -/
structure State.LoopOk (s : State) : Prop where
  checked : 2 ≤ s.mincs.toNat ∧ s.mincs.toNat ≤ 8 ∧ 1 ≤ s.len.toNat ∧ s.len.toNat ≤ s.params.maxPix
  stream : s.StreamOk
  table : s.TableOk
  pending : s.PendingOk
  position : 1 ≤ s.pos.toNat ∧ s.pos.toNat ≤ s.len.toNat

theorem State.LoopOk.lzwOk (h : s.LoopOk) (hp : s.phase = phLLoop) : s.LzwOk where
  checked _ _ := h.checked
  at_init e := absurd (hp.symm.trans e) (by decide)
  buffered _ _ := ⟨h.stream.buffer.1, h.stream.buffer.2, h.stream.optr_le⟩
  tabled _ _ := h.table
  at_first e := absurd (hp.symm.trans e) (by decide)
  pending _ _ := h.pending
  position _ := h.position
  at_finish e := absurd (hp.symm.trans e) (by decide)

/-! ### The steps -/

/-- A step whose parts all succeed: its first part gives a state, and the rest goes on from it. -/
theorem ok_of_match {r : Except Stop State} {f : State → Except Stop State}
    (h : (match r with
      | .ok u => f u
      | .error e => .error e) = .ok t) : ∃ u, r = .ok u ∧ f u = .ok t := by
  cases r with
  | ok u => exact ⟨u, rfl, h⟩
  | error e => cases h

/-- E_SYMBOL, or E_RESOURCE from PutByte (spec/60_exceptions.md R228, R229). -/
theorem State.LzwRuns.inv_raise (h : s.LzwRuns) (e : ErrName) : (s.forgetLzw.errorEntry e).Inv :=
  State.Bounded.inv_errorEntry (u := .lzw) (s := s.forgetLzw)
    { h with
      pfx_wf := Memory.wf_unwritten _
      sfx_wf := Memory.wf_unwritten _
      csb_wf := Memory.wf_unwritten _
      pfx_within := Memory.within_unwritten _ _
      sfx_within := Memory.within_unwritten _ _
      csb_within := Memory.within_unwritten _ _ }
    h.status (congrArg BitVec.toNat h.csblen) e

theorem State.LzwRuns.inv_errorEntry (h : s.LzwRuns) (e : ErrName) : (s.errorEntry e).Inv :=
  h.toBounded.inv_errorEntry (u := .lzw) h.status (congrArg BitVec.toNat h.csblen) e

theorem State.LzwRuns.lCheck (h : s.LzwRuns) (ht : execLCheck s = .next t) : t.Inv := by
  rcases execLCheck_cases s with ⟨-, e⟩ | ⟨-, -, e⟩ | ⟨-, -, -, e⟩ | ⟨hmincs, hlen, hcap, e⟩ <;>
    (rw [e] at ht; cases ht)
  · exact h.inv_errorEntry .config
  · exact h.inv_errorEntry .empty
  · exact h.inv_errorEntry .resource
  · have hpos := one_le_toNat hlen
    have hrange : 2 ≤ s.mincs.toNat ∧ s.mincs.toNat ≤ 8 := by omega
    exact State.LzwRuns.inv { h with
      phase := ⟨by simp, by simp⟩
      emitted := by simp
      checked := fun _ _ => ⟨hrange.1, hrange.2, hpos, hcap⟩
      at_init := fun _ => ⟨rfl, rfl, rfl, rfl⟩
      buffered := by simp
      tabled := by simp
      at_first := by simp
      pending := by simp
      position := by simp
      at_finish := by simp }

theorem State.LzwRuns.lInit (h : s.LzwRuns) (hp : s.phase = phLInit) (ht : execLInit s = .next t) : t.Inv := by
  rcases lzwOutcome_next ht with hok | ⟨e, -, rfl⟩
  · obtain ⟨u, hu, hok⟩ := ok_of_match hok
    cases hok
    obtain ⟨h2, h8, hlen⟩ := h.checked (by simp [hp]) (by simp [hp])
    obtain ⟨hpos, hoptr, hacc, hnbits⟩ := h.at_init hp
    obtain ⟨hnext, hcw, -⟩ := seed_spec s h2 h8
    obtain ⟨-, hcap, -⟩ := h.caps
    have htable : s.seed.TableOk := State.seed_tableOk h2 h8
    have hstream : s.seed.StreamOk :=
      { cap := hcap
        csb_wf := h.csb_wf
        csb_within := h.csb_within
        buffer := by simp [State.BufferOk, hacc, hnbits]
        optr_le := by simp [hoptr] }
    obtain ⟨csb, optr, acc, nbits, rfl, hstream', hoptr'⟩ :=
      hstream.emit (htable.code_fits htable.control_lt.1) hu
    have hemitted : s.chain = true → 1 ≤ optr.toNat := by
      intro hc
      have h8 : s.mincs.toNat = 8 := congrArg BitVec.toNat (h.build hc).1
      omega
    exact State.LzwRuns.inv { h with
      csb_wf := hstream'.csb_wf
      csb_within := hstream'.csb_within
      phase := ⟨by simp, by simp⟩
      emitted := fun hc _ => hemitted hc
      checked := fun _ _ => ⟨h2, h8, hlen⟩
      at_init := by simp
      buffered := fun _ _ => ⟨hstream'.buffer.1, hstream'.buffer.2, hstream'.optr_le⟩
      tabled := fun _ _ => htable.congr rfl rfl rfl rfl rfl
      at_first := fun _ => ⟨hpos, hnext⟩
      pending := by simp
      position := by simp
      at_finish := by simp }
  · exact h.inv_raise e

theorem State.LzwRuns.lFirst (h : s.LzwRuns) (hp : s.phase = phLFirst) (ht : execLFirst s = .next t) : t.Inv := by
  rcases lzwOutcome_next ht with hok | ⟨e, -, rfl⟩
  · obtain ⟨u, hu, hok⟩ := ok_of_match hok
    cases hok
    obtain ⟨rfl, hk⟩ := readSymbol_next hu
    obtain ⟨h2, h8, hlen, hmax⟩ := h.checked (by simp [hp]) (by simp [hp])
    have hstream := h.streamOk (by simp [hp])
    have htable : s.TableOk := h.tabled (by simp [hp]) (by simp [hp])
    exact State.LzwRuns.inv { h with
      phase := ⟨by simp, by simp⟩
      emitted := fun hc _ => h.emitted hc (by simp [hp])
      toLzwOk := State.LoopOk.lzwOk
        { checked := ⟨h2, h8, hlen, hmax⟩
          stream := { hstream with }
          table := htable.congr rfl rfl rfl rfl rfl
          pending := pendingOk_of_literal rfl hk htable.1
          position := ⟨by simp, hlen⟩ } rfl }
  · exact h.inv_raise e

/-! ### The cases of L_LOOP -/

theorem State.LzwRuns.consumed_loopOk (h : s.LzwRuns) (hp : s.phase = phLLoop) (hpos : s.pos ≠ s.len) :
    s.consumed.LoopOk := by
  have h18 : 18 ≤ s.phase.toNat := by simp [hp]
  have hne : s.pos.toNat ≠ s.len.toNat := fun e => hpos (BitVec.eq_of_toNat_eq e)
  obtain ⟨h1, hle⟩ := h.position hp
  have hnext : (s.pos + 1).toNat = s.pos.toNat + 1 := toNat_succ _ (by omega)
  exact
    { checked := h.checked (by omega) h.phase.2
      stream := { h.streamOk h18 with }
      table := State.TableOk.congr (h.tabled h18 h.phase.2) rfl rfl rfl rfl rfl
      pending := h.pending (by simp [hp]) h.phase.2
      position := by
        change 1 ≤ (s.pos + 1).toNat ∧ (s.pos + 1).toNat ≤ s.len.toNat
        omega }

/-- The code Lookup answers may stand in W (spec/43_lzw.md R190). -/
theorem pendingOk_of_lookup {c : Nat} {w : BitVec 12} {k : Byte} (hw : s.w = BitVec.ofNat 12 c)
    (hlookup : s.lookup w k = some c) (hnext : s.next.toNat ≤ maxEnt) : s.PendingOk := by
  obtain ⟨hfirst, hlt, -, -⟩ := lookup_some hlookup
  rw [maxEnt] at hnext
  have hwc : s.w.toNat = c := by rw [hw]; exact Nat.mod_eq_of_lt (by omega)
  have hf : s.first = s.clr + 2 := rfl
  have he : s.eoi = s.clr + 1 := rfl
  refine ⟨?_, ?_, ?_⟩ <;> omega

theorem State.LzwRuns.lLoopExtend (h : s.LzwRuns) (hp : s.phase = phLLoop) (ht : execLLoopExtend s = .next t) :
    t.Inv := by
  obtain ⟨hcase, ht⟩ := inCase_next ht
  obtain ⟨hpos, c, hlookup⟩ := (loopCase_extend s).1 hcase
  rcases lzwOutcome_next ht with hok | ⟨e, -, rfl⟩
  · obtain ⟨u, hu, hok⟩ := ok_of_match hok
    cases hok
    obtain ⟨rfl, -⟩ := consumeSymbol_next hu
    have hl := h.consumed_loopOk hp hpos
    have hc : s.consumed.lookup s.consumed.w s.consumed.k = some c := hlookup
    rw [hc]
    exact State.LzwRuns.inv { h with
      emitted := h.emitted
      toLzwOk := State.LoopOk.lzwOk
        { hl with
          stream := { hl.stream with }
          table := hl.table.congr rfl rfl rfl rfl rfl
          pending := pendingOk_of_lookup rfl hlookup hl.table.next_le } hp }
  · exact h.inv_raise e

theorem State.LzwRuns.lLoopInsert (h : s.LzwRuns) (hp : s.phase = phLLoop) (ht : execLLoopInsert s = .next t) :
    t.Inv := by
  obtain ⟨hcase, ht⟩ := inCase_next ht
  obtain ⟨hpos, hlookup, hroom⟩ := (loopCase_insert s).1 hcase
  rcases lzwOutcome_next ht with hok | ⟨e, -, rfl⟩
  · obtain ⟨u, hu, hok⟩ := ok_of_match hok
    obtain ⟨v, hv, hok⟩ := ok_of_match hok
    cases hok
    obtain ⟨rfl, hk⟩ := consumeSymbol_next hu
    have hl := h.consumed_loopOk hp hpos
    obtain ⟨csb, optr, acc, nbits, rfl, hstream, hoptr⟩ := hl.stream.emit (hl.table.code_fits hl.pending.1) hv
    have htable := hl.table.insertEntry hroom hl.pending hk hlookup
    exact State.LzwRuns.inv { h with
      pfx_wf := Memory.wf_put h.pfx_wf _ _
      pfx_within := Memory.within_put h.pfx_within hroom _
      sfx_wf := Memory.wf_put h.sfx_wf _ _
      sfx_within := Memory.within_put h.sfx_within hroom _
      csb_wf := hstream.csb_wf
      csb_within := hstream.csb_within
      emitted := fun hc h18 => (h.emitted hc h18).trans (Nat.le_of_add_right_le hoptr)
      toLzwOk := State.LoopOk.lzwOk
        { hl with
          stream := { hstream with }
          table := htable.congr rfl rfl rfl rfl rfl
          pending := pendingOk_of_literal rfl hk htable.1 } hp }
  · exact h.inv_raise e

theorem State.LzwRuns.lLoopReset (h : s.LzwRuns) (hp : s.phase = phLLoop) (ht : execLLoopReset s = .next t) :
    t.Inv := by
  obtain ⟨hcase, ht⟩ := inCase_next ht
  obtain ⟨hpos, -, -⟩ := (loopCase_reset s).1 hcase
  rcases lzwOutcome_next ht with hok | ⟨e, -, rfl⟩
  · obtain ⟨u, hu, hok⟩ := ok_of_match hok
    obtain ⟨v, hv, hok⟩ := ok_of_match hok
    obtain ⟨x, hx, hok⟩ := ok_of_match hok
    cases hok
    obtain ⟨rfl, hk⟩ := consumeSymbol_next hu
    have hl := h.consumed_loopOk hp hpos
    obtain ⟨csb, optr, acc, nbits, rfl, hstream, hoptr⟩ := hl.stream.emit (hl.table.code_fits hl.pending.1) hv
    obtain ⟨csb', optr', acc', nbits', rfl, hstream', hoptr'⟩ :=
      hstream.emit (hl.table.code_fits hl.table.control_lt.1) hx
    obtain ⟨h2, h8, -⟩ := hl.checked
    have htable := State.seed_tableOk (s := s.consumed) h2 h8
    have hge : s.optr.toNat ≤ optr'.toNat := (Nat.le_of_add_right_le hoptr).trans (Nat.le_of_add_right_le hoptr')
    exact State.LzwRuns.inv { h with
      csb_wf := hstream'.csb_wf
      csb_within := hstream'.csb_within
      emitted := fun hc h18 => (h.emitted hc h18).trans hge
      toLzwOk := State.LoopOk.lzwOk
        { hl with
          stream := { hstream' with }
          table := htable.congr rfl rfl rfl rfl rfl
          pending := pendingOk_of_literal rfl hk htable.1 } hp }
  · exact h.inv_raise e

theorem State.LzwRuns.lLoopEnd (h : s.LzwRuns) (hp : s.phase = phLLoop) (ht : execLLoopEnd s = .next t) : t.Inv := by
  obtain ⟨hcase, ht⟩ := inCase_next ht
  cases ht
  have hpos := (loopCase_fin s).1 hcase
  exact State.LzwRuns.inv { h with
    phase := ⟨by simp, by simp⟩
    emitted := fun hc _ => h.emitted hc (by simp [hp])
    checked := fun _ _ => h.checked (by simp [hp]) (by simp [hp])
    at_init := by simp
    buffered := fun _ _ => h.buffered (by simp [hp]) (by simp [hp])
    tabled := fun _ _ => State.TableOk.congr (h.tabled (by simp [hp]) (by simp [hp])) rfl rfl rfl rfl rfl
    at_first := by simp
    pending := fun _ _ => h.pending (by simp [hp]) (by simp [hp])
    position := by simp
    at_finish := fun _ => hpos }

/-! ### The end of the unit -/

/-- LZW's end in an LZW run (spec/40_commands.md R121). -/
theorem finishLzw_alone (h : s.chain = false) :
    s.finishLzw =
      { s with
        csblen := s.optr
        csb := s.csb.forgetFrom .csb s.optr.toNat s.draws
        status := s.status.completed
        chain := false
        phase := phIdle
        draws := s.draws + 1 } := by
  simp [State.finishLzw, State.complete, h]

/-- LZW's end under BUILD: the run goes on into FRM (spec/40_commands.md R121). -/
theorem finishLzw_chained (h : s.chain = true) :
    s.finishLzw =
      { s with
        csblen := s.optr
        csb := s.csb.forgetFrom .csb s.optr.toNat s.draws
        status := s.status.chainedTo .frm
        phase := phFCheck
        draws := s.draws + 1 } := by
  simp [State.finishLzw, State.complete, h]

/-- LZW's end: alone it leaves an idle machine, under BUILD it launches FRM (spec/43_lzw.md R194). -/
theorem State.Bounded.finishLzw_inv (h : s.Bounded) (hs : s.status = .launched .lzw)
    (hoptr : s.optr.toNat ≤ s.params.csbCap)
    (hbuild : s.chain = true →
      s.mincs = gifMincs ∧ s.giflen = 0 ∧ s.width ≠ 0 ∧ s.height ≠ 0 ∧ 1 ≤ s.optr.toNat) : s.finishLzw.Inv := by
  have hwf := Memory.wf_forgetFrom h.csb_wf .csb s.optr.toNat s.draws
  have hwithin := Memory.within_forgetFrom h.csb_within .csb s.optr.toNat s.draws
  cases hc : s.chain
  · rw [finishLzw_alone hc]
    exact State.Bounded.inv_completed (u := .lzw)
      { h with csblen_le := hoptr, csb_wf := hwf, csb_within := hwithin }
      (congrArg Status.completed hs) rfl rfl
  · rw [finishLzw_chained hc]
    obtain ⟨hmincs, hgiflen, hw, hh, hemitted⟩ := hbuild hc
    exact State.FrmRuns.inv
      { h with
        toFrmOk := State.frmOk_of_phase (.inl (by simp))
        csblen_le := hoptr
        csb_wf := hwf
        csb_within := hwithin
        status := congrArg (Status.chainedTo · .frm) hs
        phase := ⟨by simp, by simp⟩
        giflen := hgiflen
        build := fun _ => ⟨hmincs, hw, hh, hemitted⟩ }

theorem State.LzwRuns.lFinish (h : s.LzwRuns) (hp : s.phase = phLFinish) (ht : execLFinish s = .next t) : t.Inv := by
  have h18 : 18 ≤ s.phase.toNat := by simp [hp]
  have htable : s.TableOk := h.tabled h18 h.phase.2
  have hpending := h.pending (by simp [hp]) h.phase.2
  rcases lzwOutcome_next ht with hok | ⟨e, -, rfl⟩
  · obtain ⟨u, hu, hok⟩ := ok_of_match hok
    obtain ⟨v, hv, hok⟩ := ok_of_match hok
    obtain ⟨x, hx, hok⟩ := ok_of_match hok
    cases hok
    obtain ⟨_, _, _, _, rfl, hstream, hge⟩ := (h.streamOk h18).emit (htable.code_fits hpending.1) hu
    obtain ⟨_, _, _, _, rfl, hstream', hge'⟩ := hstream.emit (htable.code_fits htable.control_lt.2) hv
    obtain ⟨_, optr, _, _, rfl, hwf, hwithin, hge'', hle⟩ := hstream'.flush hx
    have hoptr : s.optr.toNat ≤ optr.toNat :=
      (Nat.le_of_add_right_le hge).trans ((Nat.le_of_add_right_le hge').trans hge'')
    refine State.Bounded.finishLzw_inv { h with csb_wf := hwf, csb_within := hwithin } h.status hle (fun hc => ?_)
    obtain ⟨hmincs, hgiflen, hw, hh, -⟩ := h.build hc
    exact ⟨hmincs, hgiflen, hw, hh, (h.emitted hc h18).trans hoptr⟩
  · exact h.inv_raise e

end Sys2Proof.Machine
end

/-! ## Every step keeps the invariant (spec/10_state.md R51, spec/40_commands.md R120) -/

section
namespace Sys2Proof.Machine

variable {s t : State}

/-! ### What the sequencer executes -/

theorem sequencerStep_of_decode {i : Instr} (h : decodeStep s.phase s.loopCase = .ok i) :
    sequencerStep s = exec i s := by
  unfold sequencerStep State.stepCode
  rw [decode, h]

theorem sequencerStep_idle (h : s.phase = phIdle) : sequencerStep s = .next s := by
  have hd : decodeStep s.phase s.loopCase = .error .idle := by rw [h]; rfl
  unfold sequencerStep State.stepCode
  rw [decode, hd]

/-- Outside L_LOOP PHASE alone selects the instruction (spec/30_encoding.md R83). -/
theorem sequencerStep_of_phase {p : BitVec 5} (i : Instr) (hp : s.phase = p) (hd : ∀ c, decodeStep p c = .ok i)
    (ht : sequencerStep s = .next t) : exec i s = .next t := by
  rwa [sequencerStep_of_decode (hp ▸ hd _)] at ht

/-! ### The units -/

theorem qntPhase_cases : ∀ p : BitVec 5, 1 ≤ p.toNat ∧ p.toNat ≤ 5 →
    p = phQCheck ∨ p = phQSample ∨ p = phQCut ∨ p = phQPad ∨ p = phQMap := by decide

theorem frmPhase_cases : ∀ p : BitVec 5, 8 ≤ p.toNat ∧ p.toNat ≤ 14 →
    p = phFCheck ∨ p = phFHead ∨ p = phFGct ∨ p = phFGce ∨ p = phFImg ∨ p = phFData ∨ p = phFTrail := by decide

theorem lzwPhase_cases : ∀ p : BitVec 5, 16 ≤ p.toNat ∧ p.toNat ≤ 20 →
    p = phLCheck ∨ p = phLInit ∨ p = phLFirst ∨ p = phLLoop ∨ p = phLFinish := by decide

theorem State.QntRuns.step (h : s.QntRuns) (ht : sequencerStep s = .next t) : t.Inv := by
  rcases qntPhase_cases _ h.phase with hp | hp | hp | hp | hp
  · exact h.qCheck (sequencerStep_of_phase .qCheck hp (fun _ => rfl) ht)
  · exact h.qSample hp (sequencerStep_of_phase .qSample hp (fun _ => rfl) ht)
  · exact h.qCut hp (sequencerStep_of_phase .qCut hp (fun _ => rfl) ht)
  · exact h.qPad hp (sequencerStep_of_phase .qPad hp (fun _ => rfl) ht)
  · exact h.qMap hp (sequencerStep_of_phase .qMap hp (fun _ => rfl) ht)

theorem State.FrmRuns.step (h : s.FrmRuns) (ht : sequencerStep s = .next t) : t.Inv := by
  rcases frmPhase_cases _ h.phase with hp | hp | hp | hp | hp | hp | hp
  · exact h.fCheck (sequencerStep_of_phase .fCheck hp (fun _ => rfl) ht)
  · exact h.fHead hp (sequencerStep_of_phase .fHead hp (fun _ => rfl) ht)
  · exact h.fGct hp (sequencerStep_of_phase .fGct hp (fun _ => rfl) ht)
  · exact h.fGce hp (sequencerStep_of_phase .fGce hp (fun _ => rfl) ht)
  · exact h.fImg hp (sequencerStep_of_phase .fImg hp (fun _ => rfl) ht)
  · exact h.fData hp (sequencerStep_of_phase .fData hp (fun _ => rfl) ht)
  · exact h.fTrail (sequencerStep_of_phase .fTrail hp (fun _ => rfl) ht)

/-- In L_LOOP the state selects the row (spec/43_lzw.md R189). -/
theorem State.LzwRuns.lLoop (h : s.LzwRuns) (hp : s.phase = phLLoop) (ht : sequencerStep s = .next t) : t.Inv := by
  have hrow : ∀ {c : LoopCase} {i : Instr}, s.loopCase = c → decodeStep phLLoop c = .ok i → exec i s = .next t := by
    intro c i hc hd
    rwa [sequencerStep_of_decode (by rw [hp, hc]; exact hd)] at ht
  cases hc : s.loopCase with
  | extend => exact h.lLoopExtend hp (hrow hc rfl)
  | insert => exact h.lLoopInsert hp (hrow hc rfl)
  | reset => exact h.lLoopReset hp (hrow hc rfl)
  | fin => exact h.lLoopEnd hp (hrow hc rfl)

theorem State.LzwRuns.step (h : s.LzwRuns) (ht : sequencerStep s = .next t) : t.Inv := by
  rcases lzwPhase_cases _ h.phase with hp | hp | hp | hp | hp
  · exact h.lCheck (sequencerStep_of_phase .lCheck hp (fun _ => rfl) ht)
  · exact h.lInit hp (sequencerStep_of_phase .lInit hp (fun _ => rfl) ht)
  · exact h.lFirst hp (sequencerStep_of_phase .lFirst hp (fun _ => rfl) ht)
  · exact h.lLoop hp ht
  · exact h.lFinish hp (sequencerStep_of_phase .lFinish hp (fun _ => rfl) ht)

/-! ### The step -/

theorem State.Inv.sequencerStep (h : s.Inv) (ht : sequencerStep s = .next t) : t.Inv := by
  rcases h.cases with hp | hq | hf | hl
  · cases (sequencerStep_idle hp).symm.trans ht
    exact h
  · exact hq.step ht
  · exact hf.step ht
  · exact hl.step ht

theorem State.Inv.takeMove (h : s.Inv) (m : HostMove) (rest : List HostMove) (ht : takeMove m rest s = .next t) :
    t.Inv := by
  cases m with
  | access a => exact hostAccess_keeps (h.withHost rest) a ht
  | rst =>
    cases ht
    exact (h.withHost rest).hardReset
  | pass => exact (h.withHost rest).sequencerStep ht
  | wait =>
    cases hb : s.status.busy <;> simp only [Machine.takeMove, hb] at ht
    · cases ht
      exact h.withHost rest
    · exact h.sequencerStep ht

/-- Settles O54: each of the outside world's moves, each command and each step of a unit keeps the invariant. -/
theorem stepKeepsInvariant : Obligations.StepKeepsInvariant := by
  unfold Obligations.StepKeepsInvariant
  intro s t h ht
  unfold step nextMove at ht
  split at ht
  · exact h.sequencerStep ht
  · exact h.takeMove _ _ ht

end Sys2Proof.Machine
end

/-! ## The host port (spec/20_memory.md R61 to R64)

What a host access does: when it is refused, and what it does while BUSY = 0 and while BUSY = 1. -/

section
namespace Sys2Proof.Machine

variable {s : State}

/-! ### Commands -/

/-- A command decides what an idle machine becomes; a busy one ignores it (spec/40_commands.md R110). -/
theorem exec_command_accepted (w : Word) (s : State) : ∃ t, exec (decodeCommand w) s = accepted s t := by
  rcases decodeCommand_cases w with hw | ⟨zero, op, hw⟩
  · generalize decodeCommand w = i at *
    simp only [List.mem_cons, List.not_mem_nil, or_false] at hw
    rcases hw with rfl | rfl | rfl | rfl | rfl | rfl | rfl <;> exact ⟨_, rfl⟩
  · rw [hw]
    exact ⟨_, rfl⟩

theorem exec_command_busy (h : s.status.busy = true) (w : Word) : exec (decodeCommand w) s = .next s := by
  obtain ⟨t, ht⟩ := exec_command_accepted w s
  rw [ht, accepted_busy h]

/-- QUANT, FRAME, LZW and BUILD launch a run and leave the host's moves alone (spec/40_commands.md R112). -/
theorem exec_runCommand (h : s.status.busy = false) {w : Word} (hw : w ∈ [(1 : Word), 2, 3, 4]) :
    ∃ t, exec (decodeCommand w) s = .next t ∧ t.host = s.host ∧ t.status.busy = true := by
  simp only [List.mem_cons, List.not_mem_nil, or_false] at hw
  rcases hw with rfl | rfl | rfl | rfl <;> exact ⟨_, accepted_idle h, rfl, rfl⟩

/-! ### Legal accesses -/

theorem legal_memRead_iff (p : Params) (sp : Space) (a n : Nat) :
    (HostAccess.memRead sp a n).legal p = true ↔
      (sp = .reg ∧ n = 4 ∧ a % 4 = 0) ∨ (sp = .pix ∧ n = 1 ∧ a < 4 * p.maxPix) ∨ (sp = .pal ∧ n = 1 ∧ a < 768) ∨
        (sp = .idx ∧ n = 1 ∧ a < p.maxPix) ∨ (sp = .csb ∧ n = 1 ∧ a < p.csbCap) ∨
        (sp = .gif ∧ n = 1 ∧ a < p.gifCap) := by
  cases sp <;> simp [HostAccess.legal] <;> exact fun _ => Iff.rfl

theorem legal_memWrite_iff (p : Params) (sp : Space) (a n : Nat) (v : Word) :
    (HostAccess.memWrite sp a n v).legal p = true ↔
      (sp = .reg ∧ n = 4 ∧ a % 4 = 0) ∨ (sp = .pix ∧ n = 1 ∧ a < 4 * p.maxPix) ∨ (sp = .pal ∧ n = 1 ∧ a < 768) ∨
        (sp = .idx ∧ n = 1 ∧ a < p.maxPix) ∨ (sp = .csb ∧ n = 1 ∧ a < p.csbCap) := by
  cases sp <;> simp [HostAccess.legal] <;> exact fun _ => Iff.rfl

theorem legal_memRead_reg (p : Params) {a : Nat} (ha : a % 4 = 0) : (HostAccess.memRead .reg a 4).legal p = true :=
  (legal_memRead_iff ..).2 (.inl ⟨rfl, rfl, ha⟩)

theorem legal_memWrite_reg (p : Params) {a : Nat} (ha : a % 4 = 0) (v : Word) :
    (HostAccess.memWrite .reg a 4 v).legal p = true :=
  (legal_memWrite_iff ..).2 (.inl ⟨rfl, rfl, ha⟩)

/-- The data spaces the host reads and their sizes (spec/20_memory.md R61). -/
theorem legal_memRead_data {p : Params} {sp : Space} {a : Nat} (hsp : sp ∈ [Space.pix, .pal, .idx, .csb, .gif])
    (ha : a < cellCount p sp) : (HostAccess.memRead sp a 1).legal p = true := by
  simp only [List.mem_cons, List.not_mem_nil, or_false] at hsp
  rcases hsp with rfl | rfl | rfl | rfl | rfl <;> simpa [HostAccess.legal] using ha

/-- The data spaces the host writes and their sizes (spec/20_memory.md R61, R62). -/
theorem legal_memWrite_data {p : Params} {sp : Space} {a : Nat} (hsp : sp ∈ [Space.pix, .pal, .idx, .csb])
    (ha : a < cellCount p sp) (v : Word) : (HostAccess.memWrite sp a 1 v).legal p = true := by
  simp only [List.mem_cons, List.not_mem_nil, or_false] at hsp
  rcases hsp with rfl | rfl | rfl | rfl <;> simpa [HostAccess.legal] using ha

/-! ### What an access does -/

theorem step_of_host_access {a : HostAccess} {rest : List HostMove} (h : s.host = .access a :: rest) :
    step s = hostAccess a { s with host := rest } := by
  simp only [step, nextMove, h, takeMove]

theorem step_access (s : State) (a : HostAccess) (rest : List HostMove) :
    step { s with host := .access a :: rest } = hostAccess a { s with host := rest } :=
  step_of_host_access rfl

theorem hostAccess_read {sp : Space} {a n : Nat} (hl : (HostAccess.memRead sp a n).legal s.params = true) :
    hostAccess (.memRead sp a n) s = .next (s.hostRead sp a) := if_pos hl

theorem hostAccess_write {sp : Space} {a n : Nat} {v : Word} (hl : (HostAccess.memWrite sp a n v).legal s.params = true) :
    hostAccess (.memWrite sp a n v) s =
      if isCommandWrite sp a then exec (decodeCommand v) s else .next (s.hostWrite sp a v) := if_pos hl

/-- The interface refuses what is no part of it and nothing else: no command answers a refusal (spec/20_memory.md R62). -/
theorem hostAccess_refused_iff (a : HostAccess) (s : State) :
    hostAccess a s = .refused .hostAccess ↔ ¬a.legal s.params = true := by
  constructor
  · intro h hl
    cases a with
    | memRead sp a n => cases (hostAccess_read hl).symm.trans h
    | memWrite sp a n v =>
      rw [hostAccess_write hl] at h
      split at h
      · obtain ⟨t, ht⟩ := exec_command_accepted v s
        cases ht.symm.trans h
      · cases h
  · exact fun hl => if_neg hl

/-- While BUSY = 1 every write is ignored, a command among them (spec/20_memory.md R64). -/
theorem hostAccess_write_busy (hb : s.status.busy = true) {sp : Space} {a n : Nat} {v : Word}
    (hl : (HostAccess.memWrite sp a n v).legal s.params = true) : hostAccess (.memWrite sp a n v) s = .next s := by
  rw [hostAccess_write hl, exec_command_busy hb, State.hostWrite, if_pos hb, ite_self]

theorem step_write_busy {sp : Space} {a n : Nat} {v : Word} {rest : List HostMove} (hb : s.status.busy = true)
    (h : s.host = .access (.memWrite sp a n v) :: rest) (hl : (HostAccess.memWrite sp a n v).legal s.params = true) :
    step s = .next { s with host := rest } :=
  (step_of_host_access h).trans (hostAccess_write_busy (s := { s with host := rest }) hb hl)

/-- A register read answers at any time (spec/20_memory.md R63, R64). -/
theorem hostAccess_read_reg {a : Nat} (ha : a % 4 = 0) (s : State) :
    hostAccess (.memRead .reg a 4) s = .next (s.reply (s.readOffset a)) :=
  hostAccess_read (legal_memRead_reg _ ha)

theorem hostAccess_read_data_idle (hb : s.status.busy = false) {sp : Space} {a : Nat} (hsp : sp ≠ .reg)
    (hl : (HostAccess.memRead sp a 1).legal s.params = true) :
    hostAccess (.memRead sp a 1) s = .next (s.reply ((s.readData sp a).setWidth 32)) := by
  simp [hostAccess_read hl, State.hostRead, hsp, hb]

theorem hostAccess_read_data_busy (hb : s.status.busy = true) {sp : Space} {a : Nat} (hsp : sp ≠ .reg)
    (hl : (HostAccess.memRead sp a 1).legal s.params = true) :
    hostAccess (.memRead sp a 1) s =
      .next { s.reply ((Config.drawnRead s.draws).setWidth 32) with draws := s.draws + 1 } := by
  simp [hostAccess_read hl, State.hostRead, hsp, hb]

/-- A write to CMD is the command of its word (spec/10_state.md R22). -/
theorem hostAccess_write_cmd (v : Word) (s : State) :
    hostAccess (.memWrite .reg 0 4 v) s = exec (decodeCommand v) s :=
  hostAccess_write (legal_memWrite_reg _ rfl v)

theorem hostAccess_write_reg_idle (hb : s.status.busy = false) {a : Nat} (ha : a % 4 = 0) (hcmd : a ≠ 0) (v : Word) :
    hostAccess (.memWrite .reg a 4 v) s = .next (s.writeOffset a v) := by
  simp [hostAccess_write (legal_memWrite_reg _ ha v), isCommandWrite, RegName.offset, State.hostWrite, hcmd, hb]

theorem hostAccess_write_data_idle (hb : s.status.busy = false) {sp : Space} {a : Nat} {v : Word} (hsp : sp ≠ .reg)
    (hl : (HostAccess.memWrite sp a 1 v).legal s.params = true) :
    hostAccess (.memWrite sp a 1 v) s = .next (s.writeData sp a (v.extractLsb' 0 8)) := by
  simp [hostAccess_write hl, isCommandWrite, State.hostWrite, hsp, hb]

/-! ### Registers -/

/-- A narrow register survives the way through a 32-bit word. -/
theorem extractLsb'_setWidth_word {n : Nat} (hn : n ≤ 32) (x : BitVec n) :
    (x.setWidth 32).extractLsb' 0 n = x := by
  rw [← BitVec.setWidth_eq_extractLsb' hn, BitVec.setWidth_setWidth_of_le _ hn, BitVec.setWidth_eq]

theorem IrqEnable.ofWord_word (e : IrqEnable) : IrqEnable.ofWord e.word = e := by
  rw [IrqEnable.ofWord, IrqEnable.word_doneIe, IrqEnable.word_errIe]

theorem writeReg_readReg (s : State) (r : RegName) : s.writeReg r (s.readReg r) = s := by
  cases r
  case ie => simp [State.writeReg, State.readReg, IrqEnable.ofWord_word]
  case width | height | mincs => simp [State.writeReg, State.readReg, extractLsb'_setWidth_word]
  all_goals rfl

theorem writeOffset_readOffset (s : State) (a : Nat) : s.writeOffset a (s.readOffset a) = s := by
  unfold State.writeOffset State.readOffset
  cases regAt a with
  | some r => exact writeReg_readReg s r
  | none => rfl

/-- What STATUS reads as in a run (spec/10_state.md R23). -/
theorem State.FlagsOk.readOffset_status_busy (h : s.FlagsOk) (hb : s.status.busy = true) :
    (s.readOffset 0x04).toNat = 1 + 256 * s.status.unit.toNat := by
  obtain ⟨hdone, herr⟩ := h.quiet hb
  obtain ⟨-, hstatus, -⟩ := readOffset_fields s
  simp [hstatus, hb, hdone, herr, h.no_code herr]

/-! ### Data cells -/

/-- A write to a data space changes no register and no memory but the host's four. -/
theorem writeData_frame (s : State) (sp : Space) (a : Nat) (b : Byte) :
    s.writeData sp a b =
      { s with
        pix := (s.writeData sp a b).pix
        pal := (s.writeData sp a b).pal
        idx := (s.writeData sp a b).idx
        csb := (s.writeData sp a b).csb } := by
  cases sp <;> rfl

theorem readData_writeData_same {sp : Space} (hsp : sp ∈ [Space.pix, .pal, .idx, .csb]) (s : State) (a : Nat)
    (b : Byte) : (s.writeData sp a b).readData sp a = b := by
  simp only [List.mem_cons, List.not_mem_nil, or_false] at hsp
  rcases hsp with rfl | rfl | rfl | rfl <;> exact Memory.read_put_same _ _ _ _

theorem readData_writeData_space {sp sp' : Space} (h : sp' ≠ sp) (s : State) (a a' : Nat) (b : Byte) :
    (s.writeData sp a b).readData sp' a' = s.readData sp' a' := by
  cases sp <;> cases sp' <;> simp at h ⊢ <;> rfl

theorem readData_writeData_addr {a a' : Nat} (h : a' ≠ a) (s : State) (sp : Space) (b : Byte) :
    (s.writeData sp a b).readData sp a' = s.readData sp a' := by
  cases sp
  case pix | pal | idx | csb => exact Memory.read_put_ne _ _ _ _ _ h
  all_goals rfl

theorem readData_writeData_ne {sp sp' : Space} {a a' : Nat} (h : sp' ≠ sp ∨ a' ≠ a) (s : State) (b : Byte) :
    (s.writeData sp a b).readData sp' a' = s.readData sp' a' := by
  by_cases hsp : sp' = sp
  · subst sp'
    exact readData_writeData_addr (h.resolve_left (· rfl)) s sp b
  · exact readData_writeData_space hsp s a a' b

/-! ### The obligations -/

/-- Settles O8: an access is refused exactly when it is not legal, and which ones are legal, space by space. -/
theorem onlyInterfaceAccesses : Obligations.OnlyInterfaceAccesses := by
  unfold Obligations.OnlyInterfaceAccesses
  intro s rest sp a n v
  rw [step_access, step_access, hostAccess_refused_iff, hostAccess_refused_iff, legal_memRead_iff,
    legal_memWrite_iff]
  exact ⟨Iff.rfl, Iff.rfl⟩

/-- Settles O9: an idle machine's registers and cells take the host's writes and answer its reads. -/
theorem hostWhileIdle : Obligations.HostWhileIdle := by
  unfold Obligations.HostWhileIdle
  intro s rest hb
  have hidle : { s with host := rest }.status.busy = false := hb
  refine ⟨?readReg, ?writeReg, writeOffset_readOffset s, ?command, ?readData, ?writeData⟩
  case readReg => exact fun a ha => (step_access ..).trans (hostAccess_read_reg ha _)
  case writeReg => exact fun a v ha hcmd => (step_access ..).trans (hostAccess_write_reg_idle hidle ha hcmd v)
  case command => exact fun v => (step_access ..).trans (hostAccess_write_cmd v _)
  case readData =>
    intro sp a hsp ha
    have hreg : sp ≠ .reg := ne_of_mem_of_not_mem hsp (by decide)
    exact (step_access ..).trans (hostAccess_read_data_idle hidle hreg (legal_memRead_data hsp ha))
  case writeData =>
    intro sp a v hsp ha
    have hreg : sp ≠ .reg := ne_of_mem_of_not_mem hsp (by decide)
    refine ⟨_, (step_access ..).trans (hostAccess_write_data_idle hidle hreg (legal_memWrite_data hsp ha v)),
      writeData_frame _ sp a _, ?_, fun sp' a' hne => readData_writeData_ne hne _ _⟩
    rw [readData_writeData_same hsp, BitVec.setWidth_eq_extractLsb' (by decide)]

/-- Settles O10: a busy machine ignores every write; the second of two commands is such a write. -/
theorem hostWhileBusy : Obligations.HostWhileBusy := by
  unfold Obligations.HostWhileBusy
  constructor
  · intro s rest hflags hb
    have hbusy : { s with host := rest }.status.busy = true := hb
    refine ⟨?write, ?readReg, hflags.readOffset_status_busy hb, hflags.unit_qnt, hflags.unit_frm, hflags.unit_lzw,
      ?readData⟩
    case write => exact fun sp a n v hl => step_write_busy hb rfl hl
    case readReg => exact fun a ha => (step_access ..).trans (hostAccess_read_reg ha _)
    case readData => exact fun sp a hsp hl => ⟨_, _, (step_access ..).trans (hostAccess_read_data_busy hbusy hsp hl)⟩
  · intro s rest v w hb hv
    obtain ⟨t, ht, hhost, hbusy⟩ := exec_runCommand (s := { s with host := moveWr .cmd w :: rest }) hb hv
    have hfirst := (step_access ..).trans ((hostAccess_write_cmd v _).trans ht)
    exact ⟨t, hfirst, hhost, hbusy, step_write_busy hbusy hhost (legal_memWrite_reg _ rfl w)⟩

end Sys2Proof.Machine
end

/-! ## Command words (spec/30_encoding.md R81, R82, spec/40_commands.md R117)

The encoder gives a command word back from its decoding, so each word is the only one that decodes as it does. -/

section
namespace Sys2Proof

theorem encode_decodeCommand (w : Word) : encode (decodeCommand w) = .cmd w := by
  rw [decodeCommand_eq]
  split_ifs
  case neg => exact congrArg Code.cmd (BitVec.extractLsb'_append_extractLsb' (w := 24) (len := 8))
  all_goals subst w; rfl

theorem decodeCommand_injective : Function.Injective decodeCommand := by
  intro w v h
  have hcode : Code.cmd w = Code.cmd v := by rw [← encode_decodeCommand, h, encode_decodeCommand]
  exact Code.cmd.inj hcode

theorem decodeCommand_eq_nop_iff (w : Word) : decodeCommand w = .nop ↔ w = 0 :=
  decodeCommand_injective.eq_iff (b := 0)

/-- The fields of a reserved word, as numbers (spec/30_encoding.md R82). -/
theorem fields_of_decodeCommand_reserved {w : Word} {zero : BitVec 24} {op : BitVec 8}
    (h : decodeCommand w = .reserved zero op) : zero.toNat = w.toNat / 256 ∧ op.toNat = w.toNat % 256 := by
  have hcode : Code.cmd (zero ++ op) = .cmd w := (congrArg encode h).symm.trans (encode_decodeCommand w)
  have hw := reservedWord_toNat zero op
  rw [Code.cmd.inj hcode] at hw
  omega

theorem decodeCommand_reserved_iff_not_assigned (w : Word) :
    (∃ zero op, decodeCommand w = .reserved zero op) ↔ w ∉ [(0 : Word), 1, 2, 3, 4, 0xE, 0xF] := by
  rw [decodeCommand_eq]
  split_ifs
  case neg =>
    simp only [List.mem_cons, List.not_mem_nil, *, or_self, not_false_eq_true, iff_true]
    exact ⟨_, _, rfl⟩
  all_goals subst w; simp

theorem not_assigned_iff_toNat (w : Word) :
    w ∉ [(0 : Word), 1, 2, 3, 4, 0xE, 0xF] ↔
      (5 ≤ w.toNat % 256 ∧ w.toNat % 256 ≤ 13) ∨ 16 ≤ w.toNat % 256 ∨ w.toNat / 256 ≠ 0 := by
  simp only [List.mem_cons, List.not_mem_nil, or_false, ← BitVec.toNat_inj, BitVec.ofNat_eq_ofNat, BitVec.toNat_ofNat]
  omega

end Sys2Proof

namespace Sys2Proof.Machine

variable {s : State}

/-- A command other than NOP takes DONE back, whatever else it does (spec/40_commands.md R112, R117 to R119). -/
theorem exec_command_clears_done (h : s.status.busy = false) {w : Word} (hw : w ≠ 0) :
    ∃ t, exec (decodeCommand w) s = .next t ∧ t.status.done = false := by
  have hnop := mt (decodeCommand_eq_nop_iff w).1 hw
  rcases decodeCommand_cases w with hi | ⟨zero, op, hi⟩
  · generalize decodeCommand w = i at *
    simp only [List.mem_cons, List.not_mem_nil, or_false] at hi
    rcases hi.resolve_left hnop with rfl | rfl | rfl | rfl | rfl | rfl <;> exact ⟨_, accepted_idle h, rfl⟩
  · rw [hi]
    exact ⟨_, accepted_idle h, rfl⟩

/-- A machine whose last run completed: DONE = 1, which every command but NOP changes. -/
def State.resetDone : State := { State.reset with status := Status.atReset.completed }

theorem eq_zero_of_exec_keeps_idle {w : Word}
    (h : ∀ s : State, s.status.busy = false → exec (decodeCommand w) s = .next s) : w = 0 := by
  by_contra hw
  obtain ⟨t, ht, hdone⟩ := exec_command_clears_done (s := State.resetDone) rfl hw
  have hst : t = State.resetDone := Host.Outcome.next.inj (ht.symm.trans (h _ rfl))
  rw [hst] at hdone
  exact absurd hdone (by decide)

theorem Status.badCommand_idle {f : Status} (h : f.busy = false) : f.badCommand = ⟨false, false, true, 1, 0⟩ := by
  cases f
  cases h
  rfl

theorem readOffset_of_badCommand (h : s.status = ⟨false, false, true, 1, 0⟩) : s.readOffset 0x04 = 0x00000014 := by
  change s.status.word = 0x14
  rw [h]
  decide

theorem exec_reserved_idle (h : s.status.busy = false) (zero : BitVec 24) (op : BitVec 8) :
    exec (.reserved zero op) s = .next { s with status := ⟨false, false, true, 1, 0⟩ } := by
  rw [← Status.badCommand_idle h]
  exact accepted_idle h

/-! ### The obligations -/

/-- Settles O3: each opcode decodes to its command, and no other word decodes to the same. -/
theorem opcodeMap : Obligations.OpcodeMap := by
  unfold Obligations.OpcodeMap
  intro w
  have key (v : Word) : decodeCommand w = decodeCommand v ↔ w = v := decodeCommand_injective.eq_iff
  exact ⟨key 0x0, key 0x1, key 0x2, key 0x3, key 0x4, key 0xE, key 0xF⟩

/-- Settles O4: the words outside the map and their fields, DONE as the flag that tells every other word from NOP, and
the effect of a reserved command. -/
theorem reservedWords : Obligations.ReservedWords := by
  unfold Obligations.ReservedWords
  constructor
  · intro w
    exact ⟨(decodeCommand_reserved_iff_not_assigned w).trans (not_assigned_iff_toNat w),
      fun _ _ => fields_of_decodeCommand_reserved, fun _ hb => exec_command_busy hb w, eq_zero_of_exec_keeps_idle⟩
  · intro z o s hb
    exact ⟨_, exec_reserved_idle hb z o, rfl, rfl, readOffset_of_badCommand rfl⟩

end Sys2Proof.Machine
end

/-! ## The host's commands (spec/40_commands.md R111, R112, R118, R119) -/

section
namespace Sys2Proof.Machine

variable {s t : State}

/-- With DONE and ERR at 0 the line is low, whatever IE says (spec/10_state.md R49). -/
theorem irq_low (hdone : s.status.done = false) (herr : s.status.err = false) : s.irq = false := by
  simp [State.irq, hdone, herr]

/-- STATUS after an accepted CLR, field by field (spec/40_commands.md R118). -/
theorem Status.cleared_idle {f : Status} (h : f.busy = false) : f.cleared = ⟨false, false, false, 0, 0⟩ := by
  rw [Status.cleared, h]

theorem exec_clr_idle (h : s.status.busy = false) :
    exec .clr s = .next { s with status := ⟨false, false, false, 0, 0⟩ } := by
  rw [← Status.cleared_idle h]
  exact accepted_idle h

/-- An accepted run command ends in a launch (spec/40_commands.md R112). -/
theorem exec_runCommand_launches (h : s.status.busy = false) {i : Instr}
    (hi : i ∈ [Instr.quant, .frame, .lzw, .build]) :
    ∃ (s' : State) (u : UnitName) (chain : Bool) (p : BitVec 5), exec i s = .next (s'.launch u chain p) := by
  simp only [List.mem_cons, List.not_mem_nil, or_false] at hi
  rcases hi with rfl | rfl | rfl | rfl <;> exact ⟨_, _, _, _, accepted_idle h⟩

/-! ### The obligations -/

/-- Settles O13: NOP, CLR and SRST, busy and idle. -/
theorem housekeepingCommands : Obligations.HousekeepingCommands := by
  unfold Obligations.HousekeepingCommands
  refine ⟨rfl, rfl, rfl, fun s => ⟨fun hb => ?busy, fun hb => ?idle⟩⟩
  case busy => exact ⟨accepted_busy hb, accepted_busy hb, accepted_busy hb⟩
  case idle =>
    exact ⟨accepted_idle hb, ⟨_, exec_clr_idle hb, rfl, irq_low rfl rfl⟩, _, accepted_idle hb, irq_low rfl rfl, rfl⟩

/-- Settles O14: what each run command launches. -/
theorem runCommandsLaunch : Obligations.RunCommandsLaunch := by
  unfold Obligations.RunCommandsLaunch
  intro s hb
  refine ⟨accepted_idle hb, accepted_idle hb, accepted_idle hb, accepted_idle hb, fun i t hi ht => ?_⟩
  obtain ⟨s', u, chain, p, hlaunch⟩ := exec_runCommand_launches hb hi
  cases hlaunch.symm.trans ht
  exact irq_low rfl rfl

end Sys2Proof.Machine
end

/-! ## How a run ends (spec/40_commands.md R121, R122, spec/60_exceptions.md R228)

What a step of the sequencer does to STATUS, in any state: the run goes on, completes, or takes an error of its unit. -/

section
namespace Sys2Proof.Machine

variable {s t : State}

/-! ### What a step does to STATUS -/

/-- What one step makes of STATUS: BUSY stays and the run goes on, in the same unit or in the next; or the run completes; or
it fails with an error other than E_BADCMD, which is no step's (spec/60_exceptions.md R220). -/
def Status.StepsTo (f g : Status) : Prop :=
  (∃ u, g = { f with unit := u }) ∨ g = f.completed ∨ ∃ e, e ≠ .badCmd ∧ g = f.failed e

theorem Status.StepsTo.refl (f : Status) : f.StepsTo f := .inl ⟨f.unit, rfl⟩

theorem Status.StepsTo.failed (f : Status) {e : ErrName} (he : e ≠ .badCmd) : f.StepsTo (f.failed e) :=
  .inr (.inr ⟨e, he, rfl⟩)

/-- Once BUSY has fallen the run has completed or failed. -/
theorem Status.StepsTo.ended {f g : Status} (h : f.StepsTo g) (hf : f.busy = true) (hg : g.busy = false) :
    g = f.completed ∨ ∃ e, e ≠ .badCmd ∧ g = f.failed e := by
  rcases h with ⟨u, rfl⟩ | h
  · exact absurd (hf.symm.trans hg) (by decide)
  · exact h

/-- The error codes of a step (spec/60_exceptions.md R220). -/
theorem ErrName.code_bounds {e : ErrName} (he : e ≠ .badCmd) : 2 ≤ e.code.toNat ∧ e.code.toNat ≤ 6 := by
  cases e
  case badCmd => exact absurd rfl he
  all_goals decide

/-- What a step does to STATUS and to the host's moves. -/
structure State.StepsTo (s t : State) : Prop where
  status : s.status.StepsTo t.status
  host : t.host = s.host

/-- A step that ends neither the run nor the unit. -/
theorem State.StepsTo.of_same (hstatus : t.status = s.status) (hhost : t.host = s.host) : s.StepsTo t :=
  ⟨hstatus ▸ .refl _, hhost⟩

theorem State.StepsTo.errorEntry (s : State) {e : ErrName} (he : e ≠ .badCmd) : s.StepsTo (s.errorEntry e) :=
  ⟨.failed _ he, rfl⟩

theorem State.StepsTo.complete (s : State) (u : UnitName) : s.StepsTo (s.complete u) := by
  rcases s.complete_cases u with ⟨-, -, e⟩ | ⟨-, -, e⟩ | ⟨-, e⟩ <;> rw [e]
  · exact ⟨.inl ⟨_, rfl⟩, rfl⟩
  · exact ⟨.inl ⟨_, rfl⟩, rfl⟩
  · exact ⟨.inr (.inl rfl), rfl⟩

/-! ### QNT -/

theorem State.StepsTo.finishQnt (s : State) : s.StepsTo s.finishQnt := by
  have h := State.StepsTo.complete { s with len := s.count, ncol := s.ncolw } .qnt
  unfold State.finishQnt
  dsimp only
  split <;> exact ⟨h.status, h.host⟩

theorem execQCheck_stepsTo (ht : execQCheck s = .next t) : s.StepsTo t := by
  rcases execQCheck_cases s with ⟨-, e⟩ | ⟨-, -, e⟩ | ⟨-, -, -, e⟩ | ⟨-, -, -, e⟩ <;> cases e.symm.trans ht
  · exact ⟨.failed _ (by decide), rfl⟩
  · exact ⟨.failed _ (by decide), rfl⟩
  · exact ⟨.failed _ (by decide), rfl⟩
  · exact .of_same rfl rfl

theorem execQSample_stepsTo (ht : execQSample s = .next t) : s.StepsTo t := by
  obtain ⟨-, rfl⟩ := ifCells_next ht
  exact .of_same rfl rfl

theorem execQCut_stepsTo (ht : execQCut s = .next t) : s.StepsTo t := by
  obtain ⟨-, rfl⟩ := ifCells_next ht
  exact .of_same rfl rfl

theorem execQPad_stepsTo (ht : execQPad s = .next t) : s.StepsTo t := by
  cases ht
  exact .of_same rfl rfl

theorem execQMap_stepsTo (ht : execQMap s = .next t) : s.StepsTo t := by
  obtain ⟨-, ⟨-, rfl⟩ | ⟨-, rfl⟩⟩ := execQMap_next ht
  · have h := State.StepsTo.finishQnt s.mapped
    exact ⟨h.status, h.host⟩
  · exact .of_same rfl rfl

/-! ### FRM -/

/-- PutG touches neither STATUS nor the host's moves (spec/42_gif_framer.md R168). -/
theorem State.putGs_status (s : State) (bytes : List Byte) : (s.putGs bytes).status = s.status := by
  rw [State.putGs_eq]

theorem State.putGs_host (s : State) (bytes : List Byte) : (s.putGs bytes).host = s.host := by
  rw [State.putGs_eq]

theorem State.StepsTo.finishFrm (s : State) : s.StepsTo s.finishFrm := by
  have h := State.StepsTo.complete
    { s with
      giflen := s.gptr
      gif := s.gif.forgetFrom .gif s.gptr.toNat s.draws
      draws := s.draws + 1 } .frm
  unfold State.finishFrm
  dsimp only
  split <;> exact ⟨h.status, h.host⟩

theorem execFCheck_stepsTo (ht : execFCheck s = .next t) : s.StepsTo t := by
  rcases execFCheck_cases s with ⟨-, e⟩ | ⟨-, -, e⟩ | ⟨-, -, -, e⟩ | ⟨-, -, -, e⟩ <;> cases e.symm.trans ht
  · exact .errorEntry s (by decide)
  · exact .errorEntry s (by decide)
  · exact .errorEntry s (by decide)
  · exact .of_same rfl rfl

theorem frameStep_stepsTo {bytes : List Byte} {p : BitVec 5} (ht : s.frameStep bytes p = .next t) : s.StepsTo t := by
  obtain ⟨-, rfl⟩ := frameStep_next ht
  exact .of_same (s.putGs_status bytes) (s.putGs_host bytes)

theorem execFHead_stepsTo (ht : execFHead s = .next t) : s.StepsTo t := frameStep_stepsTo ht

theorem execFGct_stepsTo (ht : execFGct s = .next t) : s.StepsTo t := frameStep_stepsTo ht

theorem execFGce_stepsTo (ht : execFGce s = .next t) : s.StepsTo t := frameStep_stepsTo ht

/-- F_IMG moves POS before it writes (spec/42_gif_framer.md R165). -/
theorem execFImg_stepsTo (ht : execFImg s = .next t) : s.StepsTo t :=
  have h := frameStep_stepsTo (s := { s with pos := 0 }) ht
  ⟨h.status, h.host⟩

theorem execFData_stepsTo (ht : execFData s = .next t) : s.StepsTo t := by
  obtain ⟨-, -, rfl⟩ := execFData_next ht
  exact .of_same (State.putGs_status _ _) (State.putGs_host _ _)

theorem execFTrail_stepsTo (ht : execFTrail s = .next t) : s.StepsTo t := by
  obtain ⟨-, rfl⟩ := ifCells_next ht
  have h := State.StepsTo.finishFrm (s.putGs [0x00, trailer])
  exact ⟨s.putGs_status _ ▸ h.status, h.host.trans (s.putGs_host _)⟩

/-! ### LZW -/

/-- What a part of an LZW step may end in: a state with the property P, an error other than E_BADCMD, or a fault. -/
def PartEnds (P : State → Prop) : Except Stop State → Prop
  | .ok t => P t
  | .error (.raise e) => e ≠ .badCmd
  | .error (.fault _) => True

/-- The rest of an LZW step goes on from the state its first part gives. -/
theorem PartEnds.bind {P Q : State → Prop} {r : Except Stop State} {f : State → Except Stop State}
    (hr : PartEnds P r) (hf : ∀ u, P u → PartEnds Q (f u)) :
    PartEnds Q
      (match (generalizing := false) r with
      | .ok u => f u
      | .error e => .error e) := by
  cases r with
  | ok u => exact hf u hr
  | error e => cases e <;> exact hr

theorem lzwOutcome_stepsTo {r : Except Stop State} (hr : PartEnds s.StepsTo r) (ht : lzwOutcome s r = .next t) :
    s.StepsTo t := by
  rcases lzwOutcome_next ht with rfl | ⟨e, rfl, rfl⟩
  · exact hr
  · exact ⟨.failed _ hr, rfl⟩

/-- A part of a step that leaves the run as it is. -/
structure State.SameRun (s t : State) : Prop where
  status : t.status = s.status
  host : t.host = s.host

theorem putByte_ends (h : s.SameRun t) (b : Byte) : PartEnds s.SameRun (putByte b t) := by
  unfold putByte
  split
  · exact (by decide : ErrName.resource ≠ .badCmd)
  · split
    · trivial
    · exact ⟨h.status, h.host⟩

theorem drainAcc_ends (h : s.SameRun t) (passes : Nat) : PartEnds s.SameRun (drainAcc passes t) := by
  induction passes generalizing t with
  | zero => exact h
  | succ passes ih =>
    unfold drainAcc
    split
    · exact h
    · exact (putByte_ends h _).bind fun u hu => ih ⟨hu.status, hu.host⟩

theorem emitCode_ends (h : s.SameRun t) (c n : Nat) : PartEnds s.SameRun (emitCode c n t) := by
  refine drainAcc_ends ?_ 3
  exact ⟨h.status, h.host⟩

theorem flushAcc_ends (h : s.SameRun t) : PartEnds s.SameRun (flushAcc t) := by
  unfold flushAcc
  split
  · exact (putByte_ends h _).bind fun u hu => ⟨hu.status, hu.host⟩
  · exact h

theorem readSymbol_ends (i : Nat) (s : State) : PartEnds s.SameRun (readSymbol i s) := by
  rcases readSymbol_cases i s with ⟨-, -, e⟩ | ⟨-, -, e⟩ | ⟨-, e⟩ <;> rw [e]
  · exact ⟨rfl, rfl⟩
  · exact (by decide : ErrName.symbol ≠ .badCmd)
  · trivial

theorem consumeSymbol_ends (s : State) : PartEnds s.SameRun (consumeSymbol s) :=
  (readSymbol_ends s.pos.toNat s).bind fun _ hu => ⟨hu.status, hu.host⟩

theorem State.StepsTo.finishLzw (h : s.SameRun t) : s.StepsTo t.finishLzw := by
  have hc := State.StepsTo.complete
    { t with
      csblen := t.optr
      csb := t.csb.forgetFrom .csb t.optr.toNat t.draws
      draws := t.draws + 1 } .lzw
  exact ⟨h.status ▸ hc.status, hc.host.trans h.host⟩

theorem execLCheck_stepsTo (ht : execLCheck s = .next t) : s.StepsTo t := by
  rcases execLCheck_cases s with ⟨-, e⟩ | ⟨-, -, e⟩ | ⟨-, -, -, e⟩ | ⟨-, -, -, e⟩ <;> cases e.symm.trans ht
  · exact .errorEntry s (by decide)
  · exact .errorEntry s (by decide)
  · exact .errorEntry s (by decide)
  · exact .of_same rfl rfl

theorem execLInit_stepsTo (ht : execLInit s = .next t) : s.StepsTo t := by
  refine lzwOutcome_stepsTo (PartEnds.bind (emitCode_ends (t := s.seed) ⟨rfl, rfl⟩ _ _) fun u hu => ?_) ht
  exact .of_same hu.status hu.host

theorem execLFirst_stepsTo (ht : execLFirst s = .next t) : s.StepsTo t := by
  refine lzwOutcome_stepsTo (PartEnds.bind (readSymbol_ends 0 s) fun u hu => ?_) ht
  exact .of_same hu.status hu.host

theorem execLLoopExtend_stepsTo (ht : execLLoopExtend s = .next t) : s.StepsTo t := by
  refine lzwOutcome_stepsTo (PartEnds.bind (consumeSymbol_ends s) fun u hu => ?_) (inCase_next ht).2
  exact .of_same hu.status hu.host

theorem execLLoopInsert_stepsTo (ht : execLLoopInsert s = .next t) : s.StepsTo t := by
  refine lzwOutcome_stepsTo (PartEnds.bind (consumeSymbol_ends s) fun u hu => ?_) (inCase_next ht).2
  refine PartEnds.bind (emitCode_ends hu _ _) fun v hv => ?_
  exact .of_same hv.status hv.host

theorem execLLoopReset_stepsTo (ht : execLLoopReset s = .next t) : s.StepsTo t := by
  refine lzwOutcome_stepsTo (PartEnds.bind (consumeSymbol_ends s) fun u hu => ?_) (inCase_next ht).2
  refine PartEnds.bind (emitCode_ends hu _ _) fun v hv => PartEnds.bind (emitCode_ends hv _ _) fun x hx => ?_
  exact .of_same hx.status hx.host

theorem execLLoopEnd_stepsTo (ht : execLLoopEnd s = .next t) : s.StepsTo t := by
  cases (inCase_next ht).2
  exact .of_same rfl rfl

theorem execLFinish_stepsTo (ht : execLFinish s = .next t) : s.StepsTo t := by
  refine lzwOutcome_stepsTo (PartEnds.bind (emitCode_ends (s := s) ⟨rfl, rfl⟩ _ _) fun u hu => ?_) ht
  refine PartEnds.bind (emitCode_ends hu _ _) fun v hv => PartEnds.bind (flushAcc_ends hv) fun x hx => ?_
  exact .finishLzw hx

/-! ### Every step of the sequencer -/

/-- What PHASE selects is one of the twenty step rows (spec/30_encoding.md R83). -/
theorem decodeStep_mem {p : BitVec 5} {c : LoopCase} {i : Instr} (h : decodeStep p c = .ok i) :
    i ∈ stepRows.map (·.instr) := by
  unfold decodeStep at h
  split at h
  · rename_i r hr
    cases h
    exact List.mem_map_of_mem (List.mem_of_find?_eq_some hr)
  · cases h

theorem exec_stepsTo {i : Instr} (hi : i ∈ stepRows.map (·.instr)) (ht : exec i s = .next t) : s.StepsTo t := by
  simp only [stepRows, List.map_cons, List.map_nil, List.mem_cons, List.not_mem_nil, or_false] at hi
  rcases hi with rfl | rfl | rfl | rfl | rfl | rfl | rfl | rfl | rfl | rfl | rfl | rfl | rfl | rfl | rfl | rfl | rfl |
    rfl | rfl | rfl
  · exact execQCheck_stepsTo ht
  · exact execQSample_stepsTo ht
  · exact execQCut_stepsTo ht
  · exact execQPad_stepsTo ht
  · exact execQMap_stepsTo ht
  · exact execFCheck_stepsTo ht
  · exact execFHead_stepsTo ht
  · exact execFGct_stepsTo ht
  · exact execFGce_stepsTo ht
  · exact execFImg_stepsTo ht
  · exact execFData_stepsTo ht
  · exact execFTrail_stepsTo ht
  · exact execLCheck_stepsTo ht
  · exact execLInit_stepsTo ht
  · exact execLFirst_stepsTo ht
  · exact execLLoopExtend_stepsTo ht
  · exact execLLoopInsert_stepsTo ht
  · exact execLLoopReset_stepsTo ht
  · exact execLLoopEnd_stepsTo ht
  · exact execLFinish_stepsTo ht

theorem sequencerStep_stepsTo (ht : sequencerStep s = .next t) : s.StepsTo t := by
  cases hd : decodeStep s.phase s.loopCase with
  | ok i => exact exec_stepsTo (decodeStep_mem hd) ((sequencerStep_of_decode hd).symm.trans ht)
  | error r =>
    unfold sequencerStep State.stepCode at ht
    rw [decode, hd] at ht
    cases r <;> cases ht
    exact .of_same rfl rfl

/-- With no move of the host the sequencer steps (spec/20_memory.md R71). -/
theorem step_of_host_nil (h : s.host = []) : step s = sequencerStep s := by
  simp only [step, nextMove, h]

/-! ### The obligation -/

/-- Settles O56: the invariant after the step gives an idle machine, and what the step did to STATUS says which of the two
outcomes it is. -/
theorem runEndsDoneOrErr : Obligations.RunEndsDoneOrErr := by
  unfold Obligations.RunEndsDoneOrErr
  intro s t hinv hhost hbusy ht hend
  have hidle := (stepKeepsInvariant s t hinv ht).idles hend
  have hsteps := sequencerStep_stepsTo ((step_of_host_nil hhost).symm.trans ht)
  have hstay : step t = .next t := by
    rw [step_of_host_nil (hsteps.host.trans hhost), sequencerStep_idle hidle.phase]
  obtain ⟨-, herr⟩ := hinv.flags.quiet hbusy
  rcases hsteps.status.ended hbusy hend with hstatus | ⟨e, he, hstatus⟩
  · have hcode := hinv.flags.no_code herr
    refine ⟨hidle.phase, hidle.chain, by rw [hstatus]; rfl, hstay, .inl ?_⟩
    simp [State.irq, hstatus, Status.completed, herr, hcode]
  · refine ⟨hidle.phase, hidle.chain, by rw [hstatus]; rfl, hstay, .inr ?_⟩
    simpa [State.irq, hstatus, Status.failed] using ErrName.code_bounds he

end Sys2Proof.Machine
end

/-! ## Q_CHECK and Q_SAMPLE (spec/41_quantizer.md R131, R133) -/

section
namespace Sys2Proof.Machine

/-- COUNT holds the pixel count of any WIDTH and HEIGHT without loss (spec/41_quantizer.md R131). -/
theorem State.counted_toNat (s : State) : s.counted.count.toNat = s.width.toNat * s.height.toNat := by
  have hlt : s.width.toNat * s.height.toNat < 2 ^ 16 * 2 ^ 16 :=
    Nat.mul_lt_mul'' s.width.isLt s.height.isLt
  exact Nat.mod_eq_of_lt hlt

/-- The stride of any COUNT fits its register, also beyond the largest image. -/
theorem sampleStride_toNat_lt (v : BitVec 32) : sampleStride v.toNat < 2 ^ 17 := by
  rcases sampleStride_cases v.toNat with ⟨-, h⟩ | ⟨-, h⟩ <;> rw [h] <;> omega

theorem State.samples_length (s : State) : s.samples.length = sampleCount s.count.toNat := by
  simp [State.samples]

/-- What Q_SAMPLE leaves in SMP: the samples, and every cell from NSMP on as it was (spec/41_quantizer.md R133). -/
theorem State.read_putList_samples (s : State) (j : Nat) :
    (s.smp.putList 0 s.samples).read drawnColour j =
      if j < sampleCount s.count.toNat then s.col (j * sampleStride s.count.toNat) else s.smpAt j := by
  rw [Memory.read_putList]
  simp only [s.samples_length, Nat.zero_le, Nat.zero_add, true_and, Nat.sub_zero]
  split
  · simp [State.samples]
  · rfl

/-! ### The obligations -/

/-- Settles O15: the three tests in their order, each with the error it enters, and the way on to Q_SAMPLE. -/
theorem qCheckTests : Obligations.QCheckTests := by
  unfold Obligations.QCheckTests
  intro s
  have hcount := s.counted_toNat
  refine ⟨fun h0 => ?_, fun h0 hmax => ?_, fun h0 hmax hlen => ?_, fun h0 hmax hlen => ?_⟩
  · exact ⟨_, if_pos h0, rfl, hcount⟩
  · exact ⟨_, (if_neg h0).trans (if_pos hmax), rfl, hcount⟩
  · exact ⟨_, (if_neg h0).trans ((if_neg (Nat.not_lt.2 hmax)).trans (if_pos hlen)), rfl, hcount⟩
  · exact ⟨_, (if_neg h0).trans ((if_neg (Nat.not_lt.2 hmax)).trans (if_neg (not_not.2 hlen))), rfl, hcount⟩

/-- Settles O16: STRIDE and NSMP fit their registers, and the sampled colours stand in SMP from cell 0. -/
theorem qSampleFillsSmp : Obligations.QSampleFillsSmp := by
  unfold Obligations.QSampleFillsSmp
  intro s hmax
  have hstride : (BitVec.ofNat 17 (sampleStride s.count.toNat)).toNat = sampleStride s.count.toNat :=
    Nat.mod_eq_of_lt (sampleStride_toNat_lt _)
  have hroom := sampleCount_le s.count.toNat
  have hnsmp : (BitVec.ofNat 17 (sampleCount s.count.toNat)).toNat = sampleCount s.count.toNat :=
    Nat.mod_eq_of_lt (by omega)
  refine ⟨_, ifCells_of hmax _ _, rfl, hstride, ?_, fun j hj => ?_, fun j hj => ?_⟩
  · rw [hstride, hnsmp]
    rfl
  · rw [hnsmp] at hj
    rw [hstride]
    exact (s.read_putList_samples j).trans (if_pos hj)
  · rw [hnsmp] at hj
    exact (s.read_putList_samples j).trans (if_neg (by omega))

end Sys2Proof.Machine
end

/-! ## The median cut (spec/41_quantizer.md R136 to R140) -/

section
namespace Sys2Proof.Machine

variable {α : Type}

/-! ### Folding max and min over a list -/

theorem foldl_max_le_iff (f : α → Nat) (l : List α) (a n : Nat) :
    l.foldl (fun m c => max m (f c)) a ≤ n ↔ a ≤ n ∧ ∀ c ∈ l, f c ≤ n := by
  induction l generalizing a with
  | nil => simp
  | cons c l ih => rw [List.foldl_cons, ih, max_le_iff, List.forall_mem_cons, and_assoc]

theorem le_foldl_min_iff (f : α → Nat) (l : List α) (a n : Nat) :
    n ≤ l.foldl (fun m c => min m (f c)) a ↔ n ≤ a ∧ ∀ c ∈ l, n ≤ f c := by
  induction l generalizing a with
  | nil => simp
  | cons c l ih => rw [List.foldl_cons, ih, le_min_iff, List.forall_mem_cons, and_assoc]

/-! ### The widest channel -/

/-- An attained upper bound of a channel is its maximum. -/
theorem maxOf_eq {B : List Colour} {ch : Channel} {n : Nat} (hle : ∀ c ∈ B, (channel c ch).toNat ≤ n)
    (hmem : ∃ c ∈ B, (channel c ch).toNat = n) : maxOf B ch = n := by
  obtain ⟨c, hc, rfl⟩ := hmem
  have hmax := (foldl_max_le_iff (fun c => (channel c ch).toNat) B 0 (maxOf B ch)).1 (Nat.le_refl _)
  exact Nat.le_antisymm ((foldl_max_le_iff _ _ _ _).2 ⟨Nat.zero_le _, hle⟩) (hmax.2 c hc)

/-- An attained lower bound of a channel is its minimum. -/
theorem minOf_eq {B : List Colour} {ch : Channel} {n : Nat} (hle : ∀ c ∈ B, n ≤ (channel c ch).toNat)
    (hmem : ∃ c ∈ B, (channel c ch).toNat = n) : minOf B ch = n := by
  obtain ⟨c, hc, rfl⟩ := hmem
  have hmin := (le_foldl_min_iff (fun c => (channel c ch).toNat) B 255 (minOf B ch)).1 (Nat.le_refl _)
  have h255 := (channel c ch).isLt
  exact Nat.le_antisymm (hmin.2 c hc) ((le_foldl_min_iff _ _ _ _).2 ⟨by omega, hle⟩)

/-! ### Sorting by distribution -/

/-- The buckets of the values below n hold the elements of a value below n. -/
theorem flatMap_filter_perm (f : α → Nat) (l : List α) (n : Nat) :
    ((List.range n).flatMap fun v => l.filter fun c => f c == v).Perm (l.filter fun c => f c < n) := by
  induction n with
  | zero => simp
  | succ n ih =>
    have hlow : (l.filter fun c => f c < n + 1).filter (fun c => f c < n) = l.filter fun c => f c < n := by
      rw [List.filter_filter]
      exact List.filter_congr fun c _ => by grind
    have htop : (l.filter fun c => f c < n + 1).filter (fun c => !decide (f c < n)) = l.filter fun c => f c == n := by
      rw [List.filter_filter]
      exact List.filter_congr fun c _ => by grind
    have hsplit := List.filter_append_perm (fun c => f c < n) (l.filter fun c => f c < n + 1)
    rw [hlow, htop] at hsplit
    rw [List.range_succ, List.flatMap_append, List.flatMap_singleton]
    exact (ih.append_right _).trans hsplit

/-- The buckets of rising values make a list whose values never fall. -/
theorem flatMap_filter_pairwise (f : α → Nat) (l : List α) (n : Nat) :
    ((List.range n).flatMap fun v => l.filter fun c => f c == v).Pairwise fun x y => f x ≤ f y := by
  have hval : ∀ {v c}, c ∈ l.filter (fun c => f c == v) → f c = v := by
    intro v c hc
    simpa using (List.mem_filter.1 hc).2
  rw [List.pairwise_flatMap]
  refine ⟨fun v _ => List.pairwise_of_forall_mem_list fun x hx y hy => ?_,
    List.pairwise_lt_range.imp fun hlt x hx y hy => ?_⟩
  · exact Nat.le_of_eq ((hval hx).trans (hval hy).symm)
  · rw [hval hx, hval hy]
    exact Nat.le_of_lt hlt

/-- Of the buckets of the values below n, that of v alone holds elements of value v. -/
theorem filter_flatMap_filter (f : α → Nat) (l : List α) (n v : Nat) :
    ((List.range n).flatMap fun w => l.filter fun c => f c == w).filter (fun c => f c == v) =
      if v < n then l.filter fun c => f c == v else [] := by
  induction n with
  | zero => simp
  | succ n ih =>
    rw [List.range_succ, List.flatMap_append, List.flatMap_singleton, List.filter_append, ih, List.filter_filter]
    by_cases hv : v = n
    · subst hv
      simp
    · have hnone : l.filter (fun c => f c == v && f c == n) = [] := by
        rw [List.filter_eq_nil_iff]
        intro c _
        simp only [Bool.and_eq_true, beq_iff_eq]
        omega
      rw [hnone, List.append_nil]
      exact if_congr (by omega) rfl rfl

/-! ### The mean -/

theorem sumOf_le (B : List Colour) (ch : Channel) : sumOf B ch ≤ 255 * B.length := by
  have := List.sum_le_card_nsmul (B.map fun c => (channel c ch).toNat) 255 (by
    intro x hx
    obtain ⟨c, -, rfl⟩ := List.mem_map.1 hx
    have := (channel c ch).isLt
    omega)
  rw [List.length_map, smul_eq_mul, Nat.mul_comm] at this
  exact this

/-- The rounded mean of a channel fits a byte (spec/41_quantizer.md R140). -/
theorem meanOf_toNat {B : List Colour} (hB : B ≠ []) (ch : Channel) :
    (meanOf B ch).toNat = (2 * sumOf B ch + B.length) / (2 * B.length) := by
  have hlen := List.length_pos_of_ne_nil hB
  have hsum := sumOf_le B ch
  refine Nat.mod_eq_of_lt ((Nat.div_lt_iff_lt_mul (by omega)).2 ?_)
  omega

theorem channel_mean {B : List Colour} (hB : B ≠ []) (ch : Channel) : channel (mean B) ch = meanOf B ch := by
  have hmean : mean B = ⟨meanOf B .r, meanOf B .g, meanOf B .b⟩ := if_neg (by simpa using hB)
  rw [hmean]
  cases ch <;> rfl

/-! ### The obligations -/

/-- Settles O20: the attained bounds are the maximum and minimum that the ranges are made of. -/
theorem widestChannel : Obligations.WidestChannel := by
  unfold Obligations.WidestChannel
  intro B lo hi _ hbounds
  have hrange : ∀ ch, rangeOf B ch = hi ch - lo ch := by
    intro ch
    obtain ⟨hlo, hhi, hall⟩ := hbounds ch
    rw [rangeOf, maxOf_eq (fun c hc => (hall c hc).2) hhi, minOf_eq (fun c hc => (hall c hc).1) hlo]
  simp only [widest, hrange]

/-- Settles O21: the buckets of the 256 values in turn, each in the order of the colours. -/
theorem sortIsStableAscending : Obligations.SortIsStableAscending := by
  unfold Obligations.SortIsStableAscending
  intro B ch
  refine ⟨?_, flatMap_filter_pairwise _ B 256, fun v => ?_⟩
  · have hall : B.filter (fun c => decide ((channel c ch).toNat < 256)) = B :=
      List.filter_eq_self.2 fun c _ => decide_eq_true (channel c ch).isLt
    exact (flatMap_filter_perm _ B 256).trans (.of_eq hall)
  · have hval : (fun c : Colour => channel c ch == v) = fun c => (channel c ch).toNat == v.toNat := by
      funext c
      rw [Bool.eq_iff_iff, beq_iff_eq, beq_iff_eq, BitVec.toNat_inj]
    rw [hval]
    exact (filter_flatMap_filter _ B 256 v.toNat).trans (if_pos v.isLt)

/-- Settles O22: no bit of the rounded mean is lost, and floor division gives its bounds. -/
theorem meanRoundsHalfUp : Obligations.MeanRoundsHalfUp := by
  unfold Obligations.MeanRoundsHalfUp
  refine ⟨rfl, fun B ch hB => ?_⟩
  have hlen := List.length_pos_of_ne_nil hB
  rw [channel_mean hB, meanOf_toNat hB]
  exact ⟨rfl, Nat.mul_div_le _ _, Nat.lt_mul_div_succ _ (by omega)⟩

end Sys2Proof.Machine
end

/-! ## The palette (spec/41_quantizer.md R135, R142) -/

section
namespace Sys2Proof.Machine

/-- The three bytes of entry i of a palette (spec/10_state.md R44). -/
theorem paletteBytes_getElem? (cols : List Colour) (i : Nat) (h : i < cols.length) :
    (paletteBytes cols)[3 * i]? = some cols[i].r ∧ (paletteBytes cols)[3 * i + 1]? = some cols[i].g ∧
      (paletteBytes cols)[3 * i + 2]? = some cols[i].b := by
  induction cols generalizing i with
  | nil => cases h
  | cons c cols ih =>
    have hcons : paletteBytes (c :: cols) = c.r :: c.g :: c.b :: paletteBytes cols := rfl
    cases i with
    | zero => simp [hcons]
    | succ i => simpa [hcons, Nat.mul_add] using ih i (by simpa using h)

/-- PAL after palette entries are written from entry 0: those entries. -/
theorem palEntry_of_putList {s t : State} {cols : List Colour} (ht : t.pal = s.pal.putList 0 (paletteBytes cols))
    {i : Nat} (h : i < cols.length) : t.palEntry i = cols[i] := by
  have hbyte : ∀ {a : Nat} {b : Byte}, (paletteBytes cols)[a]? = some b → t.palAt a = b := by
    intro a b hb
    obtain ⟨hlt, rfl⟩ := List.getElem?_eq_some_iff.1 hb
    rw [State.palAt, ht, Memory.read_putList, dif_pos ⟨Nat.zero_le _, by omega⟩]
    rfl
  obtain ⟨hr, hg, hb⟩ := paletteBytes_getElem? cols i h
  rw [State.palEntry, hbyte hr, hbyte hg, hbyte hb]

/-- PAL after palette entries are written from entry 0: the bytes beyond them stay. -/
theorem palAt_of_putList {s t : State} {cols : List Colour} (ht : t.pal = s.pal.putList 0 (paletteBytes cols))
    {a : Nat} (h : 3 * cols.length ≤ a) : t.palAt a = s.palAt a := by
  rw [State.palAt, ht, Memory.read_putList, dif_neg]
  · rfl
  · rw [paletteBytes_length]
    omega

/-- Black entries are zero bytes. -/
theorem eq_zero_of_mem_black {n : Nat} {b : Byte} (h : b ∈ paletteBytes (List.replicate n black)) : b = 0 := by
  obtain ⟨c, hc, hb⟩ := List.mem_flatMap.1 h
  cases List.eq_of_mem_replicate hc
  simpa [black] using hb

/-! ### The obligations -/

/-- Settles O18: the cut has 1 to 256 colours, so NCOLW holds their number, and they stand in PAL from entry 0. -/
theorem qCutWritesPalette : Obligations.QCutWritesPalette := by
  unfold Obligations.QCutWritesPalette
  intro s hroom
  obtain ⟨hlo, hhi⟩ := cut_length_bounds 8 s.bucket
  have hncolw : (BitVec.ofNat 9 (cut 8 s.bucket).length).toNat = (cut 8 s.bucket).length := Nat.mod_eq_of_lt (by omega)
  refine ⟨_, ifCells_of hroom _ _, rfl, hncolw.symm ▸ hlo, hncolw.symm ▸ hhi, hncolw, fun i hi => ?_, fun a ha => ?_⟩
  · exact (palEntry_of_putList rfl hi).trans (List.getD_eq_getElem _ _ hi).symm
  · exact palAt_of_putList rfl ha

/-- Settles O24: the bytes written are those of black entries, and reach to the end of PAL. -/
theorem qPadBlackens : Obligations.QPadBlackens := by
  unfold Obligations.QPadBlackens
  intro s
  refine ⟨_, rfl, rfl, fun a => ?_⟩
  have hend : 3 * s.ncolw.toNat ≤ a ∧
      a < 3 * s.ncolw.toNat + (paletteBytes (List.replicate (palSize - s.ncolw.toNat) black)).length ↔
      3 * s.ncolw.toNat ≤ a ∧ a < 768 := by
    rw [paletteBytes_length, List.length_replicate, palSize]
    omega
  refine (Memory.read_putList _ _ _ _ _).trans ?_
  split
  · rename_i h
    rw [if_pos (hend.1 h)]
    exact eq_zero_of_mem_black (List.getElem_mem _)
  · rename_i h
    rw [if_neg (mt hend.2 h)]
    rfl

end Sys2Proof.Machine
end

/-! ## The nearest colour and Q_MAP (spec/41_quantizer.md R143 to R145) -/

section
namespace Sys2Proof.Machine

/-! ### The squared distance -/

theorem sqDiff_eq (a b : Byte) : (sqDiff a b : Int) = ((a.toNat : Int) - b.toNat) ^ 2 := by
  rw [sqDiff, Int.toNat_of_nonneg (mul_self_nonneg _), pow_two]

theorem sqDiff_le (a b : Byte) : sqDiff a b ≤ 65025 := by
  have ha := a.isLt
  have hb := b.isLt
  have habs : |(a.toNat : Int) - b.toNat| ≤ 255 := by
    rw [abs_le]
    omega
  have hsq := sq_le_sq' (abs_le.1 habs).1 (abs_le.1 habs).2
  have := sqDiff_eq a b
  omega

theorem dist2_le (c e : Colour) : dist2 c e ≤ maxDist2 := by
  have hr := sqDiff_le c.r e.r
  have hg := sqDiff_le c.g e.g
  have hb := sqDiff_le c.b e.b
  unfold dist2 maxDist2
  omega

/-! ### The nearest entry -/

/-- The smallest distance is that of an entry, and no entry is nearer. -/
theorem minDist_spec {palette : List Colour} (hne : palette ≠ []) (c : Colour) :
    (palette.map (dist2 c)).foldl min maxDist2 ∈ palette.map (dist2 c) ∧
      ∀ e ∈ palette, (palette.map (dist2 c)).foldl min maxDist2 ≤ dist2 c e := by
  rw [List.foldl_map]
  have hiff := le_foldl_min_iff (dist2 c) palette maxDist2
  generalize palette.foldl (fun m e => min m (dist2 c e)) maxDist2 = m at *
  obtain ⟨-, hmin⟩ := (hiff m).1 (Nat.le_refl m)
  refine ⟨?_, hmin⟩
  by_contra hmem
  have hlt : ∀ e ∈ palette, m + 1 ≤ dist2 c e := fun e he =>
    Nat.lt_of_le_of_ne (hmin e he) fun heq => hmem (heq ▸ List.mem_map_of_mem he)
  obtain ⟨e, he⟩ := List.exists_mem_of_ne_nil _ hne
  have htop : m + 1 ≤ maxDist2 := (hlt e he).trans (dist2_le c e)
  exact Nat.not_succ_le_self m ((hiff (m + 1)).2 ⟨htop, hlt⟩)

/-- The nearest index is an entry's; no entry is nearer, and those of lower indices are farther (spec/41_quantizer.md R145). -/
theorem nearestIn_spec {palette : List Colour} (hne : palette ≠ []) (c : Colour) :
    ∃ h : nearestIn palette c < palette.length, ∀ (j : Nat) (hj : j < palette.length),
      dist2 c (palette[nearestIn palette c]) ≤ dist2 c palette[j] ∧
        (j < nearestIn palette c → dist2 c (palette[nearestIn palette c]) < dist2 c palette[j]) := by
  obtain ⟨hmem, hmin⟩ := minDist_spec hne c
  have hlt : nearestIn palette c < (palette.map (dist2 c)).length := List.idxOf_lt_length_of_mem hmem
  have hat : (palette.map (dist2 c))[nearestIn palette c] = _ := List.getElem_idxOf hlt
  rw [List.getElem_map] at hat
  rw [List.length_map] at hlt
  refine ⟨hlt, fun j hj => ?_⟩
  have hle := hmin palette[j] (List.getElem_mem hj)
  rw [hat]
  refine ⟨hle, fun hlow => Nat.lt_of_le_of_ne hle fun heq => ?_⟩
  have hbefore : ((palette.map (dist2 c))[j] == _) = false := List.not_of_lt_findIdx hlow
  exact ne_of_beq_false hbefore (by rw [List.getElem_map]; exact heq.symm)

theorem State.palette_length (s : State) : s.palette.length = 256 := by
  simp [State.palette, palSize]

theorem State.nearest_isNearest (s : State) (c : Colour) : IsNearest s.palEntry c (s.nearest c) := by
  have hlen := s.palette_length
  have hget : ∀ (i : Nat) (h : i < s.palette.length), s.palette[i] = s.palEntry i := by simp [State.palette]
  obtain ⟨hlt, hspec⟩ := nearestIn_spec (List.ne_nil_of_length_pos (by omega : 0 < s.palette.length)) c
  refine ⟨hlen ▸ hlt, fun j hj => ?_⟩
  simpa only [hget, State.nearest] using hspec j (hlen ▸ hj)

/-! ### Q_MAP -/

section
variable {s : State}

theorem State.mapped_idxAt (s : State) (a : Nat) :
    s.mapped.idxAt a = if a = s.pos.toNat then BitVec.ofNat 8 (s.nearest (s.col s.pos.toNat)) else s.idxAt a :=
  Memory.read_put _ _ _ _ _

/-- QNT's end keeps the indices below LEN, alone and under BUILD (spec/70_reset_and_hazards.md R256). -/
theorem finishQnt_idxAt {a : Nat} (h : a < s.count.toNat) : s.finishQnt.idxAt a = s.idxAt a := by
  cases hc : s.chain
  · rw [finishQnt_alone hc]
    exact Memory.read_forgetFrom_lt _ _ _ _ _ _ h
  · rw [finishQnt_chained hc]
    rfl

theorem finishQnt_pos (s : State) : s.finishQnt.pos = s.pos := by
  cases hc : s.chain
  · rw [finishQnt_alone hc]
  · rw [finishQnt_chained hc]

theorem execQMap_more (hpos : s.pos.toNat < s.params.maxPix) (hmore : s.pos + 1 ≠ s.count) :
    execQMap s = .next s.mapped :=
  (ifCells_of hpos _ _).trans (congrArg _ (if_neg hmore))

theorem execQMap_last (hpos : s.pos.toNat < s.params.maxPix) (hlast : s.pos + 1 = s.count) :
    execQMap s = .next s.mapped.finishQnt :=
  (ifCells_of hpos _ _).trans (congrArg _ (if_pos hlast))

/-- The index stored for a pixel is the nearest one: it fits a byte. -/
theorem isNearest_mapped {t : State} (h : t.idxAt s.pos.toNat = s.mapped.idxAt s.pos.toNat) :
    IsNearest s.palEntry (s.col s.pos.toNat) (t.idxAt s.pos.toNat).toNat := by
  have hnear := s.nearest_isNearest (s.col s.pos.toNat)
  have hbyte : (BitVec.ofNat 8 (s.nearest (s.col s.pos.toNat))).toNat = s.nearest (s.col s.pos.toNat) :=
    Nat.mod_eq_of_lt hnear.1
  rw [h, s.mapped_idxAt, if_pos rfl, hbyte]
  exact hnear

end

/-! ### The obligations -/

/-- Settles O25: the distance over the integers, and the first index of the smallest distance. -/
theorem nearestColour : Obligations.NearestColour := by
  unfold Obligations.NearestColour
  refine ⟨fun c e => ⟨?_, dist2_le c e⟩, State.nearest_isNearest⟩
  simp only [dist2, Nat.cast_add, sqDiff_eq]

/-- Settles O26: the pixel in both cases; the end of the unit where POS reaches COUNT, alone and under BUILD. -/
theorem qMapMapsPixel : Obligations.QMapMapsPixel := by
  unfold Obligations.QMapMapsPixel
  intro s hparams hpos
  have hcap : s.params.maxPix ≤ 2 ^ 30 - 1 := hparams.1.2
  have hnext : (s.pos + 1).toNat = s.pos.toNat + 1 := toNat_succ _ (by omega)
  have hothers : ∀ a, a ≠ s.pos.toNat → s.mapped.idxAt a = s.idxAt a := fun a ha =>
    (s.mapped_idxAt a).trans (if_neg ha)
  by_cases hlast : s.pos + 1 = s.count
  · have hcount : s.count.toNat = s.pos.toNat + 1 := hlast ▸ hnext
    have hbelow : ∀ a, a < s.pos.toNat + 1 → s.mapped.finishQnt.idxAt a = s.mapped.idxAt a := fun a ha =>
      finishQnt_idxAt (s := s.mapped) (hcount ▸ ha)
    refine ⟨_, execQMap_last hpos hlast, isNearest_mapped (hbelow _ (by omega)), finishQnt_pos s.mapped ▸ hnext,
      fun hmore => absurd hcount hmore, fun _ =>
        ⟨fun a ha => ?below, fun hc a ha => ?build, fun hc => ?alone, fun hc => ?chained⟩⟩
    case below => exact (hbelow a (by omega)).trans (hothers a (by omega))
    case build =>
      rw [finishQnt_chained (s := s.mapped) hc]
      exact hothers a ha
    case alone =>
      rw [finishQnt_alone (s := s.mapped) hc, hc]
      rfl
    case chained =>
      rw [finishQnt_chained (s := s.mapped) hc]
      rfl
  · have hmore : s.count.toNat ≠ s.pos.toNat + 1 := fun h => hlast (BitVec.eq_of_toNat_eq (hnext.trans h.symm))
    exact ⟨_, execQMap_more hpos hlast, isNearest_mapped rfl, hnext, fun _ => ⟨rfl, hothers⟩,
      fun h => absurd h hmore⟩

end Sys2Proof.Machine
end

/-! ## No step reads an alpha byte (spec/41_quantizer.md R132)

A step takes the same course whatever PIX holds, and leaves PIX as it is; Q_SAMPLE and Q_MAP read PIX, and only the colours
of pixels. -/

section
namespace Sys2Proof.Machine

/-- The state with other contents of PIX. -/
abbrev withPix (p : Memory Byte) (s : State) : State := { s with pix := p }

/-- The same outcome with other contents of PIX. -/
def outWithPix (p : Memory Byte) : Out → Out
  | .next t => .next (withPix p t)
  | .fault f => .fault f
  | .refused r => .refused r

/-- The same part of an LZW step with other contents of PIX. -/
abbrev partWithPix (p : Memory Byte) : Except Stop State → Except Stop State := Except.map (withPix p)

variable {p : Memory Byte} {s : State}

/-! ### Cases and sequences -/

theorem ite_withPix {c : Prop} [Decidable c] {a a' b b' : Out} (ha : a' = outWithPix p a) (hb : b' = outWithPix p b) :
    (if c then a' else b') = outWithPix p (if c then a else b) := by
  rw [ha, hb, apply_ite (outWithPix p)]

theorem ite_partWithPix {c : Prop} [Decidable c] {a a' b b' : Except Stop State} (ha : a' = partWithPix p a)
    (hb : b' = partWithPix p b) : (if c then a' else b') = partWithPix p (if c then a else b) := by
  rw [ha, hb, apply_ite (partWithPix p)]

theorem ifCells_withPix {c : Prop} [Decidable c] {sp : Space} {t t' : State} (h : t' = withPix p t) :
    ifCells c sp t' = outWithPix p (ifCells c sp t) :=
  ite_withPix (congrArg _ h) rfl

/-- The rest of an LZW step goes on from the state its first part gives. -/
theorem bind_withPix {r r' : Except Stop State} {f : State → Except Stop State} (hr : r' = partWithPix p r)
    (hf : ∀ u, f (withPix p u) = partWithPix p (f u)) :
    (match (generalizing := false) r' with
      | .ok u => f u
      | .error e => .error e) =
    partWithPix p
      (match (generalizing := false) r with
      | .ok u => f u
      | .error e => .error e) := by
  subst hr
  cases r with
  | ok u => exact hf u
  | error e => rfl

theorem lzwOutcome_withPix {r r' : Except Stop State} (hr : r' = partWithPix p r) :
    lzwOutcome (withPix p s) r' = outWithPix p (lzwOutcome s r) := by
  subst hr
  rcases r with (e | f) | t <;> rfl

theorem inCase_withPix {c : LoopCase} {o o' : Out} (h : o' = outWithPix p o) :
    (withPix p s).inCase c o' = outWithPix p (s.inCase c o) :=
  ite_withPix h rfl

/-! ### QNT -/

theorem execQCheck_withPix : execQCheck (withPix p s) = outWithPix p (execQCheck s) :=
  ite_withPix rfl (ite_withPix rfl (ite_withPix rfl rfl))

theorem samples_withPix (hcol : ∀ n, (withPix p s).col n = s.col n) : (withPix p s).samples = s.samples :=
  List.map_congr_left fun j _ => hcol (j * sampleStride s.count.toNat)

theorem execQSample_withPix (hcol : ∀ n, (withPix p s).col n = s.col n) :
    execQSample (withPix p s) = outWithPix p (execQSample s) := by
  unfold execQSample
  rw [samples_withPix hcol]
  exact ifCells_withPix rfl

theorem execQCut_withPix : execQCut (withPix p s) = outWithPix p (execQCut s) := ifCells_withPix rfl

theorem finishQnt_withPix : (withPix p s).finishQnt = withPix p s.finishQnt := by
  cases hc : s.chain
  · rw [finishQnt_alone hc, finishQnt_alone (s := withPix p s) hc]
  · rw [finishQnt_chained hc, finishQnt_chained (s := withPix p s) hc]

theorem mapped_withPix (hcol : ∀ n, (withPix p s).col n = s.col n) : (withPix p s).mapped = withPix p s.mapped := by
  unfold State.mapped
  rw [hcol]
  rfl

theorem execQMap_withPix (hcol : ∀ n, (withPix p s).col n = s.col n) :
    execQMap (withPix p s) = outWithPix p (execQMap s) := by
  refine ifCells_withPix ?_
  change (if s.pos + 1 = s.count then (withPix p s).mapped.finishQnt else (withPix p s).mapped) = _
  rw [mapped_withPix hcol, finishQnt_withPix, ← apply_ite]

/-! ### FRM -/

theorem putGs_withPix (bytes : List Byte) : (withPix p s).putGs bytes = withPix p (s.putGs bytes) := by
  induction bytes generalizing s with
  | nil => rfl
  | cons b bytes ih => exact ih (s := s.putG b)

theorem frameStep_withPix (bytes : List Byte) (ph : BitVec 5) :
    (withPix p s).frameStep bytes ph = outWithPix p (s.frameStep bytes ph) := by
  refine ifCells_withPix ?_
  rw [putGs_withPix]

theorem execFGct_withPix : execFGct (withPix p s) = outWithPix p (execFGct s) := by
  have hbytes : (withPix p s).gctBytes = s.gctBytes := rfl
  unfold execFGct
  rw [hbytes]
  exact frameStep_withPix _ _

theorem execFCheck_withPix : execFCheck (withPix p s) = outWithPix p (execFCheck s) :=
  ite_withPix rfl (ite_withPix rfl (ite_withPix rfl rfl))

theorem execFData_withPix : execFData (withPix p s) = outWithPix p (execFData s) :=
  ite_withPix (frameStep_withPix (s := { s with pos := s.pos + BitVec.ofNat 32 s.subBlockLen }) _ _) rfl

theorem finishFrm_withPix : (withPix p s).finishFrm = withPix p s.finishFrm := by
  cases hc : s.chain
  · rw [finishFrm_alone hc, finishFrm_alone (s := withPix p s) hc]
  · rw [finishFrm_chained hc, finishFrm_chained (s := withPix p s) hc]

theorem execFTrail_withPix : execFTrail (withPix p s) = outWithPix p (execFTrail s) := by
  refine ifCells_withPix ?_
  rw [putGs_withPix, finishFrm_withPix]

/-! ### LZW -/

theorem putByte_withPix (b : Byte) : putByte b (withPix p s) = partWithPix p (putByte b s) :=
  ite_partWithPix rfl (ite_partWithPix rfl rfl)

theorem drainAcc_withPix (passes : Nat) : drainAcc passes (withPix p s) = partWithPix p (drainAcc passes s) := by
  induction passes generalizing s with
  | zero => rfl
  | succ passes ih =>
    exact ite_partWithPix rfl (bind_withPix (putByte_withPix _) fun u =>
      ih (s := { u with acc := u.acc >>> 8, nbits := u.nbits - 8 }))

theorem emitCode_withPix (c n : Nat) : emitCode c n (withPix p s) = partWithPix p (emitCode c n s) :=
  drainAcc_withPix (s := { s with
    acc := s.acc ||| (BitVec.ofNat 19 c <<< s.nbits.toNat)
    nbits := s.nbits + BitVec.ofNat 5 n }) 3

theorem flushAcc_withPix : flushAcc (withPix p s) = partWithPix p (flushAcc s) :=
  ite_partWithPix (bind_withPix (putByte_withPix _) fun _ => rfl) rfl

theorem readSymbol_withPix (i : Nat) : readSymbol i (withPix p s) = partWithPix p (readSymbol i s) :=
  ite_partWithPix (ite_partWithPix rfl rfl) rfl

theorem consumeSymbol_withPix : consumeSymbol (withPix p s) = partWithPix p (consumeSymbol s) :=
  bind_withPix (readSymbol_withPix _) fun _ => rfl

theorem finishLzw_withPix : (withPix p s).finishLzw = withPix p s.finishLzw := by
  cases hc : s.chain
  · rw [finishLzw_alone hc, finishLzw_alone (s := withPix p s) hc]
  · rw [finishLzw_chained hc, finishLzw_chained (s := withPix p s) hc]

theorem execLCheck_withPix : execLCheck (withPix p s) = outWithPix p (execLCheck s) :=
  ite_withPix rfl (ite_withPix rfl (ite_withPix rfl rfl))

theorem execLInit_withPix : execLInit (withPix p s) = outWithPix p (execLInit s) :=
  lzwOutcome_withPix (bind_withPix (emitCode_withPix (s := s.seed) _ _) fun _ => rfl)

theorem execLFirst_withPix : execLFirst (withPix p s) = outWithPix p (execLFirst s) :=
  lzwOutcome_withPix (bind_withPix (readSymbol_withPix _) fun _ => rfl)

theorem execLLoopExtend_withPix : execLLoopExtend (withPix p s) = outWithPix p (execLLoopExtend s) :=
  inCase_withPix (lzwOutcome_withPix (bind_withPix consumeSymbol_withPix fun _ => rfl))

theorem execLLoopInsert_withPix : execLLoopInsert (withPix p s) = outWithPix p (execLLoopInsert s) :=
  inCase_withPix (lzwOutcome_withPix (bind_withPix consumeSymbol_withPix fun _ =>
    bind_withPix (emitCode_withPix _ _) fun _ => rfl))

theorem execLLoopReset_withPix : execLLoopReset (withPix p s) = outWithPix p (execLLoopReset s) :=
  inCase_withPix (lzwOutcome_withPix (bind_withPix consumeSymbol_withPix fun _ =>
    bind_withPix (emitCode_withPix _ _) fun _ => bind_withPix (emitCode_withPix _ _) fun _ => rfl))

theorem execLLoopEnd_withPix : execLLoopEnd (withPix p s) = outWithPix p (execLLoopEnd s) := inCase_withPix rfl

theorem execLFinish_withPix : execLFinish (withPix p s) = outWithPix p (execLFinish s) :=
  lzwOutcome_withPix (bind_withPix (emitCode_withPix _ _) fun _ => bind_withPix (emitCode_withPix _ _) fun _ =>
    bind_withPix flushAcc_withPix fun _ => congrArg _ finishLzw_withPix)

/-! ### Every step of the sequencer -/

theorem exec_withPix (hcol : ∀ n, (withPix p s).col n = s.col n) {i : Instr} (hi : i ∈ stepRows.map (·.instr)) :
    exec i (withPix p s) = outWithPix p (exec i s) := by
  simp only [stepRows, List.map_cons, List.map_nil, List.mem_cons, List.not_mem_nil, or_false] at hi
  rcases hi with rfl | rfl | rfl | rfl | rfl | rfl | rfl | rfl | rfl | rfl | rfl | rfl | rfl | rfl | rfl | rfl | rfl |
    rfl | rfl | rfl
  · exact execQCheck_withPix
  · exact execQSample_withPix hcol
  · exact execQCut_withPix
  · rfl
  · exact execQMap_withPix hcol
  · exact execFCheck_withPix
  · exact frameStep_withPix _ _
  · exact execFGct_withPix
  · exact frameStep_withPix _ _
  · exact frameStep_withPix (s := { s with pos := 0 }) _ _
  · exact execFData_withPix
  · exact execFTrail_withPix
  · exact execLCheck_withPix
  · exact execLInit_withPix
  · exact execLFirst_withPix
  · exact execLLoopExtend_withPix
  · exact execLLoopInsert_withPix
  · exact execLLoopReset_withPix
  · exact execLLoopEnd_withPix
  · exact execLFinish_withPix

theorem sequencerStep_withPix (hcol : ∀ n, (withPix p s).col n = s.col n) :
    sequencerStep (withPix p s) = outWithPix p (sequencerStep s) := by
  have hcode : (withPix p s).stepCode = s.stepCode := rfl
  unfold sequencerStep
  rw [hcode]
  cases hd : decode s.stepCode with
  | ok i => exact exec_withPix hcol (decodeStep_mem hd)
  | error r => cases r <;> rfl

/-- PIX at the three colour bytes of each pixel gives the colours (spec/41_quantizer.md R132). -/
theorem col_withPix (h : ∀ a, a % 4 ≠ 3 → (withPix p s).pixAt a = s.pixAt a) (n : Nat) :
    (withPix p s).col n = s.col n := by
  rw [State.col, h _ (by omega), h _ (by omega), h _ (by omega), State.col]

/-! ### The obligation -/

/-- Settles O28: with no move of the host the sequencer steps, and its step reads PIX through the colours of pixels only. -/
theorem alphaIsNotRead : Obligations.AlphaIsNotRead := by
  unfold Obligations.AlphaIsNotRead
  refine ⟨fun _ _ => rfl, fun s t p hhost hpix ht => ?_⟩
  rw [step_of_host_nil hhost] at ht
  rw [step_of_host_nil (s := withPix p s) hhost, sequencerStep_withPix (col_withPix hpix), ht]
  rfl

end Sys2Proof.Machine
end

/-! ## The framer's steps (spec/42_gif_framer.md R161 to R168) -/

section
namespace Sys2Proof.Machine

variable {s t : State}

/-! ### Bytes appended to GIF -/

/-- PutG of a list of bytes appends them (spec/42_gif_framer.md R168). -/
theorem State.putGs_appends {bytes : List Byte} (h : s.gptr.toNat + bytes.length < 2 ^ 32) :
    s.Appends (s.putGs bytes) bytes where
  gptr := s.putGs_gptr bytes h
  stored i hi := by
    refine (s.putGs_gif_read _ bytes _ h).trans ?_
    rw [dif_pos (by omega), List.getD_eq_getElem _ _ hi]
    simp only [Nat.add_sub_cancel_left]
  others a ha := (s.putGs_gif_read _ bytes a h).trans (dif_neg (by omega))

/-- A framer step with room for its bytes: it appends them and goes to its next phase, POS set before. -/
theorem State.frameStep_appends (hparams : s.params.Ok) (pos : BitVec 32) {bytes : List Byte} (p : BitVec 5)
    (hroom : s.gptr.toNat + bytes.length ≤ s.params.gifCap) :
    ∃ t, { s with pos := pos }.frameStep bytes p = .next t ∧
      t = { s with gif := t.gif, gptr := t.gptr, pos := pos, phase := p } ∧ s.Appends t bytes := by
  obtain ⟨-, -, -, hcap⟩ := hparams
  obtain ⟨hgptr, hstored, hothers⟩ := State.putGs_appends (s := { s with pos := pos }) (hroom.trans_lt hcap)
  refine ⟨_, ifCells_of hroom _ _, ?_, hgptr, hstored, hothers⟩
  rw [State.putGs_eq]

/-- GPTR after bytes appended at a known place of the file. -/
theorem State.Appends.gptr_eq {bytes : List Byte} (h : s.Appends t bytes) {a b : BitVec 32}
    (hab : a.toNat + bytes.length = b.toNat) (ha : s.gptr = a) : t.gptr = b :=
  BitVec.eq_of_toNat_eq (by rw [h.gptr, ha, hab])

theorem State.gctBytes_length (s : State) : s.gctBytes.length = 768 := by
  rw [State.gctBytes, List.length_map, List.length_range]
  rfl

/-! ### F_DATA -/

/-- A sub-block before the end of the stream is not empty and does not pass that end (spec/42_gif_framer.md R166). -/
theorem State.subBlockLen_bounds (h : s.pos.toNat < s.csblen.toNat) :
    1 ≤ s.subBlockLen ∧ s.pos.toNat + s.subBlockLen ≤ s.csblen.toNat := by
  have hlen : s.subBlockLen = min 255 (s.csblen.toNat - s.pos.toNat) := rfl
  omega

/-- POS holds the end of a sub-block without loss (spec/42_gif_framer.md R166). -/
theorem State.pos_after_subBlock (h : s.pos.toNat < s.csblen.toNat) :
    (s.pos + BitVec.ofNat 32 s.subBlockLen).toNat = s.pos.toNat + s.subBlockLen := by
  obtain ⟨-, hend⟩ := State.subBlockLen_bounds h
  have hlt := s.csblen.isLt
  rw [BitVec.toNat_add, BitVec.toNat_ofNat]
  omega

/-! ### F_TRAIL -/

/-- What FRM's end may change, alone and under BUILD (spec/42_gif_framer.md R167, spec/40_commands.md R121). -/
theorem State.finishFrm_frame (s : State) :
    s.finishFrm =
      { s with
        giflen := s.gptr
        gif := s.finishFrm.gif
        idx := s.finishFrm.idx
        status := s.status.completed
        chain := false
        phase := phIdle
        draws := s.finishFrm.draws } := by
  cases hc : s.chain
  · rw [finishFrm_alone hc]
  · rw [finishFrm_chained hc]

/-- FRM's end keeps the file (spec/70_reset_and_hazards.md R256). -/
theorem State.finishFrm_gifAt {a : Nat} (h : a < s.gptr.toNat) : s.finishFrm.gifAt a = s.gifAt a := by
  have hread := Memory.read_forgetFrom_lt (drawnByte .gif) .gif s.gptr.toNat s.draws s.gif a h
  cases hc : s.chain
  · rw [finishFrm_alone hc]
    exact hread
  · rw [finishFrm_chained hc]
    exact hread

/-- FRM's end keeps the indices below LEN, under BUILD too (spec/70_reset_and_hazards.md R256). -/
theorem State.finishFrm_idxAt {a : Nat} (h : a < s.len.toNat) : s.finishFrm.idxAt a = s.idxAt a := by
  cases hc : s.chain
  · rw [finishFrm_alone hc]
    rfl
  · rw [finishFrm_chained hc]
    exact Memory.read_forgetFrom_lt _ _ _ _ _ _ h

theorem State.finishFrm_idx_alone (h : s.chain = false) : s.finishFrm.idx = s.idx := by
  rw [finishFrm_alone h]

/-! ### The obligations -/

/-- Settles O29: the three tests in their order, each with the error it enters, and the way on to F_HEAD. -/
theorem fCheckTests : Obligations.FCheckTests := by
  unfold Obligations.FCheckTests
  intro s
  refine ⟨fun hmincs => if_pos hmincs, fun hmincs hempty => ?_, fun hmincs hsome hcap => ?_,
    fun hmincs hsome hcap => ?_⟩
  · exact (if_neg (not_not.2 hmincs)).trans (if_pos hempty)
  · exact (if_neg (not_not.2 hmincs)).trans ((if_neg hsome).trans (if_pos hcap))
  · exact (if_neg (not_not.2 hmincs)).trans ((if_neg hsome).trans (if_neg (Nat.not_lt.2 hcap)))

/-- Settles O30: F_HEAD appends its 13 bytes. -/
theorem fHeadWrites : Obligations.FHeadWrites := by
  unfold Obligations.FHeadWrites
  intro s hparams hroom
  obtain ⟨t, ht, hframe, happ⟩ := State.frameStep_appends hparams s.pos (bytes := s.headBytes) phFGct hroom
  exact ⟨t, ht, hframe, happ.gptr_eq rfl, happ⟩

/-- Settles O31: F_GCT appends PAL. -/
theorem fGctWrites : Obligations.FGctWrites := by
  unfold Obligations.FGctWrites
  intro s hparams hroom
  have hlen := s.gctBytes_length
  obtain ⟨t, ht, hframe, happ⟩ :=
    State.frameStep_appends hparams s.pos (bytes := s.gctBytes) phFGce (hlen.symm ▸ hroom)
  exact ⟨t, ht, hframe, happ.gptr_eq (by rw [hlen]; rfl), happ⟩

/-- Settles O32: F_GCE appends its eight bytes. -/
theorem fGceWrites : Obligations.FGceWrites := by
  unfold Obligations.FGceWrites
  intro s hparams hroom
  obtain ⟨t, ht, hframe, happ⟩ := State.frameStep_appends hparams s.pos (bytes := gceBytes) phFImg hroom
  exact ⟨t, ht, hframe, happ.gptr_eq rfl, happ⟩

/-- Settles O33: F_IMG sets POS to 0 and appends its eleven bytes. -/
theorem fImgWrites : Obligations.FImgWrites := by
  unfold Obligations.FImgWrites
  intro s hparams hroom
  obtain ⟨t, ht, hframe, happ⟩ := State.frameStep_appends hparams 0 (bytes := s.imgBytes) phFData hroom
  exact ⟨t, ht, hframe, happ.gptr_eq rfl, happ⟩

/-- Settles O34: F_DATA appends the length byte and its bytes of CSB; POS reaches CSBLEN as a register where it does as a
number. -/
theorem fDataWritesSubBlock : Obligations.FDataWritesSubBlock := by
  unfold Obligations.FDataWritesSubBlock
  intro s n hparams hlt hcsb hn hroom
  obtain rfl : n = s.subBlockLen := hn
  obtain ⟨hpositive, hend⟩ := State.subBlockLen_bounds hlt
  have hnext := State.pos_after_subBlock hlt
  have hlast : s.pos + BitVec.ofNat 32 s.subBlockLen = s.csblen ↔ s.pos.toNat + s.subBlockLen = s.csblen.toNat := by
    rw [← hnext, BitVec.toNat_inj]
  obtain ⟨t, ht, hframe, happ⟩ :=
    State.frameStep_appends hparams (s.pos + BitVec.ofNat 32 s.subBlockLen) (bytes := s.subBlock)
      (if s.pos + BitVec.ofNat 32 s.subBlockLen = s.csblen then phFTrail else s.phase)
      (by rw [s.subBlock_length]; exact hroom)
  have hpos : t.pos = s.pos + BitVec.ofNat 32 s.subBlockLen := congrArg State.pos hframe
  have hphase : t.phase = if s.pos + BitVec.ofNat 32 s.subBlockLen = s.csblen then phFTrail else s.phase :=
    congrArg State.phase hframe
  refine ⟨t, (if_pos (hend.trans hcsb)).trans ht, ?_, hpositive, hpos ▸ hnext, ?_, happ⟩
  · rw [hpos, hphase]
    exact hframe
  · rw [hphase]
    simp only [hlast]

/-- Settles O35: the two end bytes are appended, then FRM's end keeps the file below GIFLEN and the indices below LEN. -/
theorem fTrailCompletes : Obligations.FTrailCompletes := by
  unfold Obligations.FTrailCompletes
  intro s hparams hroom
  obtain ⟨-, -, -, hcap⟩ := hparams
  have happ := State.putGs_appends (s := s) (bytes := [0x00, trailer]) (hroom.trans_lt hcap)
  have hu := s.putGs_eq [0x00, trailer]
  have ht : execFTrail s = .next (s.putGs [0x00, trailer]).finishFrm := ifCells_of hroom _ _
  generalize s.putGs [0x00, trailer] = u at happ hu ht
  have hchain : u.chain = s.chain := by rw [hu]
  have hlen : u.len = s.len := by rw [hu]
  have hidx : u.idx = s.idx := by rw [hu]
  have hframe := u.finishFrm_frame
  have hgptr : u.finishFrm.gptr = u.gptr := by rw [hframe]
  have hgiflen : u.finishFrm.giflen = u.gptr := by rw [hframe]
  have hend : u.gptr.toNat = s.gptr.toNat + 2 := happ.gptr
  have hkept : ∀ {a : Nat}, a < s.gptr.toNat + 2 → u.finishFrm.gifAt a = u.gifAt a := fun ha =>
    State.finishFrm_gifAt (ha.trans_eq hend.symm)
  refine ⟨_, ht, ?frame, hgiflen ▸ hend, fun hdata => ?length, (hkept (by omega)).trans (happ.stored 0 (by decide)),
    (hkept (by omega)).trans (happ.stored 1 (by decide)),
    fun a ha => (hkept (by omega)).trans (happ.others a (.inl ha)),
    fun hc => (State.finishFrm_idx_alone (hchain.trans hc)).trans hidx, fun a ha => ?indices⟩
  case frame =>
    rw [hgptr]
    exact hframe.trans (by rw [hu]; rfl)
  case length =>
    rw [hgiflen]
    omega
  case indices =>
    rw [State.finishFrm_idxAt (hlen ▸ ha), State.idxAt, hidx]
    rfl

end Sys2Proof.Machine
end

/-! ## The compressor's output stream (spec/43_lzw.md R183, R184, R194) -/

section
namespace Sys2Proof.Machine

variable {s t : State} {c d n : Nat}

/-! ### Emission -/

/-- The state with CSB, OPTR, ACC and NBITS as they are in another. -/
abbrev State.withStream (s t : State) : State :=
  { s with csb := t.csb, optr := t.optr, acc := t.acc, nbits := t.nbits }

/-- EmitCode with room for the bytes that fill up (spec/43_lzw.md R183). -/
theorem emitCode_room (hb : s.BufferOk) (hfits : c < 2 ^ n ∧ n ≤ 12) (hcap : s.params.csbCap < 2 ^ 32)
    (hroom : s.optr.toNat + (s.nbits.toNat + n) / 8 ≤ s.params.csbCap) :
    ∃ t, emitCode c n s = .ok (s.withStream t) ∧ Emitted c n s (s.withStream t) := by
  rcases emitCode_spec c n s hb.1 hb.2 hfits.2 hfits.1 hcap (by omega) with ⟨-, t, ht, he⟩ | ⟨hfull, -⟩
  · have hframe : s.withStream t = t := he.frame.symm
    exact ⟨t, by rw [hframe, ht], by rwa [hframe]⟩
  · omega

/-- EmitCode without room raises E_RESOURCE (spec/43_lzw.md R184). -/
theorem emitCode_full (hb : s.BufferOk) (hfits : c < 2 ^ n ∧ n ≤ 12) (hcap : s.params.csbCap < 2 ^ 32)
    (hoptr : s.optr.toNat ≤ s.params.csbCap)
    (hfull : s.params.csbCap < s.optr.toNat + (s.nbits.toNat + n) / 8) :
    emitCode c n s = .error (.raise .resource) := by
  rcases emitCode_spec c n s hb.1 hb.2 hfits.2 hfits.1 hcap hoptr with ⟨hroom, -⟩ | ⟨-, he⟩
  · omega
  · exact he

theorem Emitted.bufferOk (h : Emitted c n s t) : t.BufferOk := ⟨by rw [h.nbits]; omega, h.acc_lt⟩

/-- The bytes of two emissions in a row are those of their bits together. -/
theorem Emitted.optr_add (h : Emitted c n s t) (m : Nat) :
    t.optr.toNat + (t.nbits.toNat + m) / 8 = s.optr.toNat + (s.nbits.toNat + (n + m)) / 8 := by
  rw [h.optr, h.nbits]
  omega

/-- Two codes of one width, with room for both: the bytes that fill up are those of 2n bits. -/
theorem emitCode_twice_room (hb : s.BufferOk) (hc : c < 2 ^ n) (hd : d < 2 ^ n) (hn : n ≤ 12)
    (hcap : s.params.csbCap < 2 ^ 32) (hroom : s.optr.toNat + (s.nbits.toNat + 2 * n) / 8 ≤ s.params.csbCap) :
    ∃ u v, emitCode c n s = .ok (s.withStream u) ∧ Emitted c n s (s.withStream u) ∧
      emitCode d n (s.withStream u) = .ok (s.withStream v) ∧ Emitted d n (s.withStream u) (s.withStream v) := by
  obtain ⟨u, hu, he⟩ := emitCode_room hb ⟨hc, hn⟩ hcap (by omega)
  obtain ⟨v, hv, he'⟩ := emitCode_room he.bufferOk ⟨hd, hn⟩ hcap (by rwa [he.optr_add, ← two_mul])
  exact ⟨u, v, hu, he, hv, he'⟩

/-- Two codes of one width, without room for both: one of the two emissions raises E_RESOURCE. -/
theorem emitCode_twice_full (hb : s.BufferOk) (hc : c < 2 ^ n) (hd : d < 2 ^ n) (hn : n ≤ 12)
    (hcap : s.params.csbCap < 2 ^ 32) (hoptr : s.optr.toNat ≤ s.params.csbCap)
    (hfull : s.params.csbCap < s.optr.toNat + (s.nbits.toNat + 2 * n) / 8) :
    emitCode c n s = .error (.raise .resource) ∨
      ∃ u, emitCode c n s = .ok (s.withStream u) ∧ emitCode d n (s.withStream u) = .error (.raise .resource) := by
  by_cases hfirst : s.optr.toNat + (s.nbits.toNat + n) / 8 ≤ s.params.csbCap
  · obtain ⟨u, hu, he⟩ := emitCode_room hb ⟨hc, hn⟩ hcap hfirst
    exact .inr ⟨u, hu, emitCode_full he.bufferOk ⟨hd, hn⟩ hcap he.optr_le (by rwa [he.optr_add, ← two_mul])⟩
  · exact .inl (emitCode_full hb ⟨hc, hn⟩ hcap hoptr (by omega))

/-! ### The bits produced so far -/

theorem map_range_add {α : Type} (f : Nat → α) (a b : Nat) :
    (List.range (a + b)).map f = (List.range a).map f ++ (List.range b).map (fun j => f (a + j)) := by
  rw [List.range_add, List.map_append, List.map_map]
  rfl

theorem streamBits_append (l m : List Byte) : streamBits (l ++ m) = streamBits l ++ streamBits m :=
  List.flatMap_append

/-- The low q bytes of a number, the low one first, are its low 8q bits (spec/30_encoding.md R87). -/
theorem streamBits_bytes (V q : Nat) :
    streamBits ((List.range q).map (fun i => BitVec.ofNat 8 (V / 2 ^ (8 * i)))) = (List.range (8 * q)).map V.testBit := by
  induction q with
  | zero => rfl
  | succ q ih =>
    have hbyte : streamBits [BitVec.ofNat 8 (V / 2 ^ (8 * q))] = (List.range 8).map (fun j => V.testBit (8 * q + j)) := by
      simp only [streamBits, List.flatMap_singleton]
      refine List.map_congr_left (fun j hj => ?_)
      rw [BitVec.getLsbD_ofNat, decide_eq_true (List.mem_range.1 hj), Bool.true_and, Nat.testBit_div_two_pow, Nat.add_comm]
    rw [List.range_succ, List.map_append, streamBits_append, ih, Nat.mul_succ, map_range_add]
    exact congrArg _ hbyte

/-- A number put on top of an N-bit one: the bits of the low one, then its own. -/
theorem map_testBit_append {a N : Nat} (ha : a < 2 ^ N) (c n : Nat) :
    (List.range (N + n)).map (a + c * 2 ^ N).testBit = (List.range N).map a.testBit ++ (List.range n).map c.testBit := by
  have hbit : ∀ j, (a + c * 2 ^ N).testBit j = if j < N then a.testBit j else c.testBit (j - N) := by
    intro j
    rw [Nat.add_comm, Nat.mul_comm, Nat.testBit_two_pow_mul_add _ ha]
  rw [map_range_add]
  congr 1
  · refine List.map_congr_left (fun j hj => ?_)
    rw [hbit, if_pos (List.mem_range.1 hj)]
  · refine List.map_congr_left (fun j _ => ?_)
    rw [hbit, if_neg (by omega), Nat.add_sub_cancel_left]

/-- An emission appends the code's bits, bit 0 first, to the bits produced so far: all of them are the bits of
V = ACC + c × 2^NBITS above what CSB holds already (spec/43_lzw.md R183). -/
theorem State.Emits.bitString (h : s.Emits t c n) (hb : s.BufferOk) :
    t.bitString = s.bitString ++ (List.range n).map c.testBit := by
  obtain ⟨hnbits, hacc, hoptr, hstored, hothers⟩ := h
  have hbuffered := map_testBit_append hb.2 c n
  generalize s.acc.toNat + c * 2 ^ s.nbits.toNat = V at hacc hstored hbuffered
  have hold : (List.range s.optr.toNat).map t.csbAt = (List.range s.optr.toNat).map s.csbAt :=
    List.map_congr_left (fun a ha => hothers a (.inl (List.mem_range.1 ha)))
  have hnew : (List.range ((s.nbits.toNat + n) / 8)).map (fun i => t.csbAt (s.optr.toNat + i)) =
      (List.range ((s.nbits.toNat + n) / 8)).map (fun i => BitVec.ofNat 8 (V / 2 ^ (8 * i))) :=
    List.map_congr_left (fun i hi => hstored i (List.mem_range.1 hi))
  have hrest : (List.range t.nbits.toNat).map (fun j => t.acc.getLsbD j) =
      (List.range ((s.nbits.toNat + n) % 8)).map (fun j => V.testBit (8 * ((s.nbits.toNat + n) / 8) + j)) := by
    rw [hnbits]
    refine List.map_congr_left (fun j _ => ?_)
    rw [← BitVec.testBit_toNat, hacc, Nat.testBit_div_two_pow, Nat.add_comm]
  calc t.bitString
      = streamBits ((List.range s.optr.toNat).map s.csbAt) ++
          ((List.range (8 * ((s.nbits.toNat + n) / 8))).map V.testBit ++
            (List.range ((s.nbits.toNat + n) % 8)).map (fun j => V.testBit (8 * ((s.nbits.toNat + n) / 8) + j))) := by
        rw [State.bitString, hoptr, map_range_add, streamBits_append, hold, hnew, streamBits_bytes, hrest,
          List.append_assoc]
    _ = streamBits ((List.range s.optr.toNat).map s.csbAt) ++ (List.range (s.nbits.toNat + n)).map V.testBit := by
        rw [← map_range_add, Nat.div_add_mod]
    _ = s.bitString ++ (List.range n).map c.testBit := by
        rw [hbuffered, ← List.append_assoc]
        rfl

/-! ### The flush -/

/-- What the flush of L_FINISH leaves, when it has room: a partial byte is padded with zeros and written
(spec/43_lzw.md R194). -/
structure Flushed (s t : State) : Prop where
  optr : t.optr.toNat = s.optr.toNat + (if 0 < s.nbits.toNat then 1 else 0)
  kept : ∀ a, a < s.optr.toNat → t.csbAt a = s.csbAt a
  padded : 0 < s.nbits.toNat → t.csbAt s.optr.toNat = BitVec.ofNat 8 s.acc.toNat ∧ t.acc = 0 ∧ t.nbits = 0
  whole : s.nbits.toNat = 0 → t.acc = s.acc ∧ t.nbits = 0

/-- The flush writes the bytes that seven more bits would fill. -/
theorem State.BufferOk.pad (h : s.BufferOk) : (if 0 < s.nbits.toNat then 1 else 0) = (s.nbits.toNat + 7) / 8 := by
  have hseven := h.1
  split <;> omega

theorem flushAcc_room (hcap : s.params.csbCap < 2 ^ 32)
    (hroom : s.optr.toNat + (if 0 < s.nbits.toNat then 1 else 0) ≤ s.params.csbCap) :
    ∃ t, flushAcc s = .ok (s.withStream t) ∧ Flushed s (s.withStream t) := by
  by_cases hbits : 0 < s.nbits.toNat
  · rw [if_pos hbits] at hroom
    refine ⟨{ s with csb := s.csb.put s.optr.toNat (s.acc.extractLsb' 0 8), optr := s.optr + 1, acc := 0, nbits := 0 },
      by rw [flushAcc, if_pos hbits, putByte_room _ _ (by omega)], ?_⟩
    exact
      { optr := by rw [if_pos hbits]; exact toNat_succ _ (by omega)
        kept := fun a ha => Memory.read_put_ne _ _ _ _ _ (by omega)
        padded := fun _ => ⟨(Memory.read_put_same _ _ _ _).trans (by
          apply BitVec.eq_of_toNat_eq
          simp [BitVec.extractLsb'_toNat]), rfl, rfl⟩
        whole := fun h0 => absurd hbits (by omega) }
  · refine ⟨s, by rw [flushAcc, if_neg hbits], ?_⟩
    exact
      { optr := by rw [if_neg hbits]; rfl
        kept := fun _ _ => rfl
        padded := fun h => absurd h hbits
        whole := fun h0 => ⟨rfl, BitVec.eq_of_toNat_eq h0⟩ }

theorem flushAcc_full (hbits : 0 < s.nbits.toNat) (hfull : s.optr.toNat = s.params.csbCap) :
    flushAcc s = .error (.raise .resource) := by
  rw [flushAcc, if_pos hbits, putByte_full _ _ hfull]

/-! ### The obligation -/

/-- Settles O47: PutByte as its two cases, EmitCode by the bits of ACC + c × 2^NBITS. -/
theorem emitCodeAppendsBits : Obligations.EmitCodeAppendsBits := by
  unfold Obligations.EmitCodeAppendsBits
  refine ⟨fun s b => ⟨putByte_full b s, fun hroom hcap => ?_⟩,
    fun s c n hb _ hn hc hcap hoptr => ⟨fun hroom => ?_, ?_⟩⟩
  · exact ⟨_, putByte_room b s hroom, rfl, toNat_succ _ (by omega), fun a => Memory.read_put _ _ _ _ _⟩
  · obtain ⟨t, ht, he⟩ := emitCode_room hb ⟨hc, hn⟩ hcap hroom
    exact ⟨_, ht, rfl, he.bufferOk, he.emits.bitString hb, he.emits⟩
  · exact emitCode_full hb ⟨hc, hn⟩ hcap hoptr

end Sys2Proof.Machine
end

/-! ## The compressor's steps (spec/43_lzw.md R182 to R194) -/

section
namespace Sys2Proof.Machine

variable {s t u : State}

/-! ### A step that raises -/

/-- An LZW step that raises ends in error entry, CSB and the LZW registers being whatever they are (spec/60_exceptions.md
R228, R229). -/
theorem lzwFails_of_raise {o : Out} {e : ErrName} (h : o = .next (s.forgetLzw.errorEntry e)) :
    ∃ t, o = .next t ∧ s.LzwFails t e.code := ⟨_, h, lzwFails_errorEntry s e⟩

/-! ### Lookup and the case of L_LOOP -/

theorem lookup_of_isEntry {w : BitVec 12} {k : Byte} {c : Nat} (h : s.IsEntry w k c) : ∃ d, s.lookup w k = some d := by
  obtain ⟨hfirst, hnext, hpair⟩ := h
  cases hl : s.lookup w k with
  | none => exact absurd hpair (lookup_none hl c hfirst hnext)
  | some d => exact ⟨d, rfl⟩

/-- In a well-formed dictionary Lookup answers the entry of a pair, the only one there is (spec/43_lzw.md R182). -/
theorem State.DictOk.lookup_eq_some_iff (h : s.DictOk) (w : BitVec 12) (k : Byte) (c : Nat) :
    s.lookup w k = some c ↔ s.IsEntry w k c := by
  refine ⟨lookup_some, fun hc => ?_⟩
  obtain ⟨d, hd⟩ := lookup_of_isEntry hc
  obtain ⟨hfirst, hnext, hp, hs⟩ := hc
  obtain ⟨hfirst', hnext', hp', hs'⟩ := lookup_some hd
  rw [hd, h.distinct d c hfirst' hnext' hfirst hnext (hp'.trans hp.symm) (hs'.trans hs.symm)]

theorem loopCase_insert_of_no_entry (hpos : s.pos ≠ s.len) (hnew : ∀ c, ¬s.IsEntry s.w (s.idxAt s.pos.toNat) c)
    (hroom : s.next.toNat < 4096) : s.loopCase = .insert :=
  (loopCase_insert s).2 ⟨hpos, lookup_eq_none_of hnew, hroom⟩

theorem loopCase_reset_of_no_entry (hpos : s.pos ≠ s.len) (hnew : ∀ c, ¬s.IsEntry s.w (s.idxAt s.pos.toNat) c)
    (hfull : 4096 ≤ s.next.toNat) : s.loopCase = .reset :=
  (loopCase_reset s).2 ⟨hpos, lookup_eq_none_of hnew, hfull⟩

/-! ### What each step does with the outcomes of its parts -/

theorem exec_lInit_emitted (hu : emitCode s.clr s.seed.cw.toNat s.seed = .ok u) :
    exec .lInit s = .next { u with phase := phLFirst } := by
  simp only [exec, execLInit, hu, lzwOutcome]

theorem exec_lInit_raises {e : ErrName} (hu : emitCode s.clr s.seed.cw.toNat s.seed = .error (.raise e)) :
    exec .lInit s = .next (s.forgetLzw.errorEntry e) := by
  simp only [exec, execLInit, hu, lzwOutcome]

theorem exec_lFirst_read (hu : readSymbol 0 s = .ok u) :
    exec .lFirst s = .next { u with w := u.k.setWidth 12, pos := 1, phase := phLLoop } := by
  simp only [exec, execLFirst, hu, lzwOutcome]

theorem exec_lFirst_raises {e : ErrName} (hu : readSymbol 0 s = .error (.raise e)) :
    exec .lFirst s = .next (s.forgetLzw.errorEntry e) := by
  simp only [exec, execLFirst, hu, lzwOutcome]

/-- A step of L_LOOP whose byte is no symbol raises, whatever its case (spec/43_lzw.md R189). -/
theorem sequencerStep_lLoop_raises (hp : s.phase = phLLoop) (hpos : s.pos ≠ s.len) {e : ErrName}
    (hk : consumeSymbol s = .error (.raise e)) : sequencerStep s = .next (s.forgetLzw.errorEntry e) := by
  have hrow : ∀ {c : LoopCase} {i : Instr}, s.loopCase = c → decodeStep phLLoop c = .ok i → sequencerStep s = exec i s :=
    fun hc hd => sequencerStep_of_decode (by rw [hp, hc]; exact hd)
  cases hc : s.loopCase with
  | extend => rw [hrow hc rfl]; simp only [exec, execLLoopExtend, State.inCase, if_pos hc, hk, lzwOutcome]
  | insert => rw [hrow hc rfl]; simp only [exec, execLLoopInsert, State.inCase, if_pos hc, hk, lzwOutcome]
  | reset => rw [hrow hc rfl]; simp only [exec, execLLoopReset, State.inCase, if_pos hc, hk, lzwOutcome]
  | fin => exact absurd ((loopCase_fin s).1 hc) hpos

theorem exec_lLoopExtend_consumed (hc : s.loopCase = .extend) (hk : consumeSymbol s = .ok t) :
    exec .lLoopExtend s = .next { t with w := BitVec.ofNat 12 ((t.lookup t.w t.k).getD 0) } := by
  simp only [exec, execLLoopExtend, State.inCase, if_pos hc, hk, lzwOutcome]

section
variable (hc : s.loopCase = .insert) (hk : consumeSymbol s = .ok t)
include hc hk

theorem exec_lLoopInsert_emitted (hu : emitCode t.w.toNat t.cw.toNat t = .ok u) :
    exec .lLoopInsert s = .next u.insertEntry := by
  simp only [exec, execLLoopInsert, State.inCase, if_pos hc, hk, hu, lzwOutcome]

theorem exec_lLoopInsert_raises {e : ErrName} (hu : emitCode t.w.toNat t.cw.toNat t = .error (.raise e)) :
    exec .lLoopInsert s = .next (s.forgetLzw.errorEntry e) := by
  simp only [exec, execLLoopInsert, State.inCase, if_pos hc, hk, hu, lzwOutcome]

end

section
variable (hc : s.loopCase = .reset) (hk : consumeSymbol s = .ok t)
include hc hk

theorem exec_lLoopReset_emitted {v : State} (hu : emitCode t.w.toNat t.cw.toNat t = .ok u)
    (hv : emitCode u.clr u.cw.toNat u = .ok v) : exec .lLoopReset s = .next { v.seed with w := v.k.setWidth 12 } := by
  simp only [exec, execLLoopReset, State.inCase, if_pos hc, hk, hu, hv, lzwOutcome]

theorem exec_lLoopReset_raises {e : ErrName}
    (h : emitCode t.w.toNat t.cw.toNat t = .error (.raise e) ∨
      ∃ u, emitCode t.w.toNat t.cw.toNat t = .ok u ∧ emitCode u.clr u.cw.toNat u = .error (.raise e)) :
    exec .lLoopReset s = .next (s.forgetLzw.errorEntry e) := by
  obtain hu | ⟨u, hu, hv⟩ := h
  · simp only [exec, execLLoopReset, State.inCase, if_pos hc, hk, hu, lzwOutcome]
  · simp only [exec, execLLoopReset, State.inCase, if_pos hc, hk, hu, hv, lzwOutcome]

end

theorem exec_lFinish_flushed {v x : State} (hu : emitCode s.w.toNat s.cw.toNat s = .ok u)
    (hv : emitCode u.eoi u.cw.toNat u = .ok v) (hx : flushAcc v = .ok x) : exec .lFinish s = .next x.finishLzw := by
  simp only [exec, execLFinish, hu, hv, hx, lzwOutcome]

theorem exec_lFinish_emission_raises {e : ErrName}
    (h : emitCode s.w.toNat s.cw.toNat s = .error (.raise e) ∨
      ∃ u, emitCode s.w.toNat s.cw.toNat s = .ok u ∧ emitCode u.eoi u.cw.toNat u = .error (.raise e)) :
    exec .lFinish s = .next (s.forgetLzw.errorEntry e) := by
  obtain hu | ⟨u, hu, hv⟩ := h
  · simp only [exec, execLFinish, hu, lzwOutcome]
  · simp only [exec, execLFinish, hu, hv, lzwOutcome]

theorem exec_lFinish_flush_raises {v : State} {e : ErrName} (hu : emitCode s.w.toNat s.cw.toNat s = .ok u)
    (hv : emitCode u.eoi u.cw.toNat u = .ok v) (hx : flushAcc v = .error (.raise e)) :
    exec .lFinish s = .next (s.forgetLzw.errorEntry e) := by
  simp only [exec, execLFinish, hu, hv, hx, lzwOutcome]

/-! ### The beginning of a run -/

/-- Settles O38: the three tests in their order, each with the error it enters, and the way on to L_INIT. -/
theorem lCheckTests : Obligations.LCheckTests := by
  unfold Obligations.LCheckTests
  intro s
  refine ⟨fun hmincs => if_pos hmincs, fun hmincs hempty => ?_, fun hmincs hsome hlong => ?_,
    fun hmincs hsome hfits => ?_⟩
  · exact (if_neg hmincs).trans (if_pos hempty)
  · exact (if_neg hmincs).trans ((if_neg hsome).trans (if_pos hlong))
  · exact (if_neg hmincs).trans ((if_neg hsome).trans (if_neg (Nat.not_lt.2 hfits)))

/-- Settles O39: the seeded state, whose code width holds the Clear code, and its one emission. -/
theorem lInitSeeds : Obligations.LInitSeeds := by
  unfold Obligations.LInitSeeds
  intro s hparams hb h2 h8
  obtain ⟨-, ⟨-, hcap⟩, -⟩ := hparams
  obtain ⟨hnext, hcw, -, hclr, -⟩ := seed_spec s h2 h8
  have hfits : s.clr < 2 ^ s.seed.cw.toNat ∧ s.seed.cw.toNat ≤ 12 := ⟨hclr, by omega⟩
  rw [← hcw]
  refine ⟨fun hroom => ?_, fun hoptr hfull => ?_⟩
  · obtain ⟨u, hu, he⟩ := emitCode_room (s := s.seed) hb hfits hcap hroom
    exact ⟨_, exec_lInit_emitted hu, rfl, hnext, rfl, { he.emits with }⟩
  · exact lzwFails_of_raise (exec_lInit_raises (emitCode_full (s := s.seed) hb hfits hcap hoptr hfull))

/-- Settles O40: IDX has a cell 0, so the outcome is that of Sym's test. -/
theorem lFirstTakesByte : Obligations.LFirstTakesByte := by
  unfold Obligations.LFirstTakesByte
  intro s hparams
  obtain ⟨⟨hpix, -⟩, -⟩ := hparams
  have hclr : s.clr = 2 ^ s.mincs.toNat := rfl
  rw [← hclr]
  rcases readSymbol_cases 0 s with ⟨-, hk, e⟩ | ⟨-, hk, e⟩ | ⟨hbeyond, -⟩
  · exact ⟨fun _ => exec_lFirst_read e, fun h => absurd hk (Nat.not_lt.2 h)⟩
  · exact ⟨fun h => absurd h (Nat.not_lt.2 hk), fun _ => lzwFails_of_raise (exec_lFirst_raises e)⟩
  · omega

/-! ### L_LOOP -/

/-- Settles O41: Lookup by the order of the dictionary, E_SYMBOL in each case that reads a byte, and the case the state
selects. -/
theorem loopCaseSelection : Obligations.LoopCaseSelection := by
  unfold Obligations.LoopCaseSelection
  refine ⟨fun s w k c hdict => hdict.lookup_eq_some_iff w k c, fun s hhost hp hpos hpix hk => ?_, fun s hp => ?_⟩
  · rw [step_of_host_nil hhost]
    exact lzwFails_of_raise (sequencerStep_lLoop_raises hp hpos (consumeSymbol_raises hpix hk))
  · have hrow : ∀ {c : LoopCase} {i : Instr},
        s.loopCase = c → decode (.step 19 c) = .ok i → decode s.stepCode = .ok i := by
      intro c i hc hd
      rwa [State.stepCode, hp, hc]
    refine ⟨fun hend => hrow ((loopCase_fin s).2 hend) rfl, fun c hpos hc => ?_, fun hpos hnew hroom => ?_,
      fun hpos hnew hfull => ?_⟩
    · exact hrow ((loopCase_extend s).2 ⟨hpos, lookup_of_isEntry hc⟩) rfl
    · exact hrow (loopCase_insert_of_no_entry hpos hnew hroom) rfl
    · exact hrow (loopCase_reset_of_no_entry hpos hnew hfull) rfl

/-- POS counts up over an index IDX has. -/
theorem State.pos_succ_toNat (hparams : s.params.Ok) (hpix : s.pos.toNat < s.params.maxPix) :
    (s.pos + 1).toNat = s.pos.toNat + 1 := by
  obtain ⟨⟨-, hmax⟩, -⟩ := hparams
  exact toNat_succ _ (by omega)

/-- Settles O42: the consumed byte and the code Lookup answers, which has 12 bits. -/
theorem loopExtend : Obligations.LoopExtend := by
  unfold Obligations.LoopExtend
  intro s c hparams hdict hnext hpos hpix hk hc
  have hlookup : s.lookup s.w (s.idxAt s.pos.toNat) = some c := (hdict.lookup_eq_some_iff _ _ c).2 hc
  have hcode : ((s.lookup s.w (s.idxAt s.pos.toNat)).getD 0) = c := by rw [hlookup, Option.getD_some]
  obtain ⟨-, hlt, -⟩ := hc
  refine ⟨_, exec_lLoopExtend_consumed ((loopCase_extend s).2 ⟨hpos, c, hlookup⟩) (consumeSymbol_ok hpix hk), rfl,
    s.pos_succ_toNat hparams hpix, ?_⟩
  exact (congrArg (· % 2 ^ 12) hcode).trans (Nat.mod_eq_of_lt (by omega))

/-- The growth of CW, which never passes 12 (spec/43_lzw.md R191). -/
theorem State.insertEntry_cw_toNat (s : State) :
    s.insertEntry.cw.toNat =
      if 2 ^ s.cw.toNat < s.next.toNat + 1 ∧ s.cw.toNat < 12 then s.cw.toNat + 1 else s.cw.toNat := by
  rw [State.insertEntry_cw, maxCw]
  split
  case isTrue hgrow =>
    obtain ⟨-, hlt⟩ := hgrow
    bv_omega
  case isFalse => rfl

/-- Settles O43: the emission from the state with its byte consumed, then the insertion. -/
theorem loopInsert : Obligations.LoopInsert := by
  unfold Obligations.LoopInsert
  intro s hparams hb hpos hpix hk hnew hnext hcw hw
  have hposNext := s.pos_succ_toNat hparams hpix
  obtain ⟨-, ⟨-, hcap⟩, -⟩ := hparams
  have hc := loopCase_insert_of_no_entry hpos hnew hnext
  have hconsume := consumeSymbol_ok hpix hk
  refine ⟨fun hroom => ?_, fun hoptr hfull => ?_⟩
  · obtain ⟨u, hu, he⟩ := emitCode_room (s := s.consumed) hb ⟨hw, hcw⟩ hcap hroom
    refine ⟨_, exec_lLoopInsert_emitted hc hconsume hu, rfl, hposNext, { he.emits with },
      State.insertEntry_pfxAt _, State.insertEntry_sfxAt _, State.insertEntry_next_toNat hnext,
      State.insertEntry_cw_toNat _⟩
  · exact lzwFails_of_raise
      (exec_lLoopInsert_raises hc hconsume (emitCode_full (s := s.consumed) hb ⟨hw, hcw⟩ hcap hoptr hfull))

/-- Settles O44: the two emissions from the state with its byte consumed, then the seeded state. -/
theorem loopReset : Obligations.LoopReset := by
  unfold Obligations.LoopReset
  intro s hparams hb h2 h8 hpos hpix hk hnew hnext hcw hmincs hw
  have hposNext := s.pos_succ_toNat hparams hpix
  obtain ⟨-, ⟨-, hcap⟩, -⟩ := hparams
  obtain ⟨hseedNext, hseedCw, -⟩ := seed_spec s h2 h8
  have hc := loopCase_reset_of_no_entry hpos hnew hnext
  have hconsume := consumeSymbol_ok hpix hk
  have hclr : s.clr < 2 ^ s.cw.toNat := Nat.pow_lt_pow_right (by decide) hmincs
  refine ⟨fun hroom => ?_, fun hoptr hfull => ?_⟩
  · obtain ⟨u, v, hu, he, hv, he'⟩ := emitCode_twice_room (s := s.consumed) hb hw hclr hcw hcap hroom
    exact ⟨s.consumed.withStream u, _, exec_lLoopReset_emitted hc hconsume hu hv, rfl, hposNext, { he.emits with },
      { he'.emits with }, hseedNext, hseedCw⟩
  · refine lzwFails_of_raise (e := .resource) (exec_lLoopReset_raises hc hconsume ?_)
    exact (emitCode_twice_full (s := s.consumed) hb hw hclr hcw hcap hoptr hfull).imp_right
      fun ⟨u, hu, hv⟩ => ⟨_, hu, hv⟩

/-- Settles O45: POS = LEN selects END. -/
theorem loopEnd : Obligations.LoopEnd := by
  unfold Obligations.LoopEnd
  exact fun s hend => if_pos ((loopCase_fin s).2 hend)

/-! ### The end of a run -/

/-- What LZW's end leaves but for CSBLEN, the tail of CSB and where the run goes on (spec/43_lzw.md R194). -/
theorem State.finishLzw_fields (s : State) :
    s.finishLzw.csblen = s.optr ∧ s.finishLzw.optr = s.optr ∧ s.finishLzw.acc = s.acc ∧ s.finishLzw.nbits = s.nbits := by
  simp [State.finishLzw]

theorem State.finishLzw_frame_alone (h : s.chain = false) :
    s.finishLzw =
      { s with
        csblen := s.finishLzw.csblen
        acc := s.finishLzw.acc
        nbits := s.finishLzw.nbits
        optr := s.finishLzw.optr
        csb := s.finishLzw.csb
        draws := s.finishLzw.draws
        status := s.status.completed
        phase := phIdle } := by
  rw [finishLzw_alone h, h]

theorem State.finishLzw_frame_chained (h : s.chain = true) :
    s.finishLzw =
      { s with
        csblen := s.finishLzw.csblen
        acc := s.finishLzw.acc
        nbits := s.finishLzw.nbits
        optr := s.finishLzw.optr
        csb := s.finishLzw.csb
        draws := s.finishLzw.draws
        status := s.status.chainedTo .frm
        phase := phFCheck } := by
  rw [finishLzw_chained h]

/-- LZW's end keeps the stream (spec/70_reset_and_hazards.md R256). -/
theorem State.finishLzw_csbAt {a : Nat} (h : a < s.optr.toNat) : s.finishLzw.csbAt a = s.csbAt a := by
  simp only [State.csbAt, State.finishLzw, State.complete_csb]
  exact Memory.read_forgetFrom_lt _ _ _ _ _ _ h

/-- LZW's end keeps what the flush has left (spec/43_lzw.md R194, spec/70_reset_and_hazards.md R256). -/
theorem Flushed.finishLzw (h : Flushed s t) : Flushed s t.finishLzw := by
  obtain ⟨hoptr, hkept, hpadded, hwhole⟩ := h
  obtain ⟨-, hoptr', hacc, hnbits⟩ := t.finishLzw_fields
  refine ⟨by rw [hoptr', hoptr], fun a ha => ?kept, fun hbits => ?padded, fun hempty => ?whole⟩
  case kept => exact (State.finishLzw_csbAt (by rw [hoptr]; omega)).trans (hkept a ha)
  case padded =>
    rw [if_pos hbits] at hoptr
    rw [State.finishLzw_csbAt (by rw [hoptr]; exact Nat.lt_succ_self _), hacc, hnbits]
    exact hpadded hbits
  case whole =>
    rw [hacc, hnbits]
    exact hwhole hempty

/-- A width that holds the End-of-Information code has two bits at least. -/
theorem one_lt_of_two_pow_lt {m w : Nat} (h : 2 ^ m + 1 < 2 ^ w) : 1 < w := by
  by_contra hnarrow
  have hpow : 2 ^ w ≤ 2 ^ 1 := Nat.pow_le_pow_right (by decide) (by omega)
  have hone : 1 ≤ 2 ^ m := Nat.one_le_two_pow
  omega

/-- Settles O46: two emissions, the flush, which writes a byte exactly where bits remain, and LZW's end, which keeps the
stream below CSBLEN. -/
theorem lFinishCompletes : Obligations.LFinishCompletes := by
  unfold Obligations.LFinishCompletes
  intro s hparams hb hcw hw heoi
  obtain ⟨-, ⟨-, hcap⟩, -⟩ := hparams
  by_cases hcodes : s.optr.toNat + (s.nbits.toNat + 2 * s.cw.toNat) / 8 ≤ s.params.csbCap
  case neg =>
    refine ⟨fun hroom => by omega,
      fun hoptr _ => lzwFails_of_raise (e := .resource) (exec_lFinish_emission_raises ?_)⟩
    exact (emitCode_twice_full hb hw heoi hcw hcap hoptr (by omega)).imp_right fun ⟨u, hu, hv⟩ => ⟨_, hu, hv⟩
  obtain ⟨u, v, hu, he, hv, he'⟩ := emitCode_twice_room hb hw heoi hcw hcap hcodes
  have hparams : (s.withStream v).params = s.params := rfl
  have hoptr : (s.withStream v).optr.toNat ≤ s.params.csbCap := he'.optr_le
  have hbytes : (s.withStream v).optr.toNat + (if 0 < (s.withStream v).nbits.toNat then 1 else 0) =
      s.optr.toNat + (s.nbits.toNat + 2 * s.cw.toNat + 7) / 8 := by
    rw [he'.bufferOk.pad, he'.optr_add, he.optr_add, two_mul, Nat.add_assoc, Nat.add_assoc]
  refine ⟨fun hroom => ?room, fun _ hfull => ?full⟩
  case room =>
    obtain ⟨x, hx, hf⟩ := flushAcc_room (s := s.withStream v) hcap (hbytes.trans_le hroom)
    obtain ⟨hcsblen, hlast, -⟩ := (s.withStream x).finishLzw_fields
    have hend : (s.withStream x).finishLzw.csblen = (s.withStream x).finishLzw.optr := hcsblen.trans hlast.symm
    obtain ⟨hcount, hkept, hpadded, hwhole⟩ := hf.finishLzw
    have hnonempty : 1 ≤ (s.withStream x).finishLzw.csblen.toNat := by
      have hwide := one_lt_of_two_pow_lt heoi
      rw [hend, hcount, hbytes]
      omega
    exact ⟨s.withStream u, s.withStream v, _, exec_lFinish_flushed hu hv hx, he.emits, he'.emits, hend, hnonempty,
      hcount, hkept, hpadded, hwhole, State.finishLzw_frame_alone (s := s.withStream x),
      State.finishLzw_frame_chained (s := s.withStream x)⟩
  case full =>
    have hbits : 0 < (s.withStream v).nbits.toNat := by
      by_contra hnone
      rw [if_neg hnone] at hbytes
      omega
    rw [if_pos hbits] at hbytes
    exact lzwFails_of_raise (exec_lFinish_flush_raises hu hv (flushAcc_full hbits (by rw [hparams]; omega)))

end Sys2Proof.Machine
end

/-! ## Error entry (spec/60_exceptions.md R228, R229)

A step that sets ERR raised, and a step raises in one of three ways, which say what error entry leaves. -/

section
namespace Sys2Proof.Machine

variable {s t : State}

/-! ### A step leaves ERR or raises -/

/-- The ways a step raises (spec/60_exceptions.md R228, R229): Q_CHECK, with COUNT written; F_CHECK and L_CHECK, with nothing
written; an LZW step after L_CHECK, which leaves CSB and the LZW registers unspecified. -/
inductive State.Raises (s : State) : State → Prop
  | qCheck (e : ErrName) : s.Raises (s.counted.errorEntry e)
  | check (e : ErrName) : s.Raises (s.errorEntry e)
  | lzw (e : ErrName) (later : 16 < s.phase.toNat) : s.Raises (s.forgetLzw.errorEntry e)

/-- Error entry changes STATUS, CHAIN and PHASE; what the raising step may have changed before is COUNT, CSB and the LZW
registers. -/
theorem State.Raises.frame (h : s.Raises t) :
    ∃ e : ErrName,
      t =
        { s with
          status := s.status.failed e
          chain := false
          phase := phIdle
          count := t.count
          pos := t.pos
          w := t.w
          k := t.k
          next := t.next
          cw := t.cw
          acc := t.acc
          nbits := t.nbits
          optr := t.optr
          pfx := t.pfx
          sfx := t.sfx
          csb := t.csb
          draws := t.draws } := by
  cases h <;> exact ⟨_, rfl⟩

/-- The error of a CHECK step leaves the dictionary and the stream too. -/
theorem State.Raises.check_frame (h : s.Raises t) (hp : s.phase = 1 ∨ s.phase = 8 ∨ s.phase = 16) :
    t.pfx = s.pfx ∧ t.sfx = s.sfx ∧ t.csb = s.csb := by
  cases h with
  | qCheck e => exact ⟨rfl, rfl, rfl⟩
  | check e => exact ⟨rfl, rfl, rfl⟩
  | lzw e later => rcases hp with hp | hp | hp <;> simp [hp] at later

/-- ERR after a step is ERR before it, unless the step raises. -/
def State.KeepsErrOrRaises (s t : State) : Prop := t.status.err = s.status.err ∨ s.Raises t

/-! ### QNT -/

theorem State.finishQnt_err (s : State) : s.finishQnt.status.err = s.status.err := by
  cases hc : s.chain
  · rw [finishQnt_alone hc]; rfl
  · rw [finishQnt_chained hc]; rfl

theorem execQCheck_keepsErrOrRaises (ht : execQCheck s = .next t) : s.KeepsErrOrRaises t := by
  rcases execQCheck_cases s with ⟨-, e⟩ | ⟨-, -, e⟩ | ⟨-, -, -, e⟩ | ⟨-, -, -, e⟩ <;> cases e.symm.trans ht
  · exact .inr (.qCheck _)
  · exact .inr (.qCheck _)
  · exact .inr (.qCheck _)
  · exact .inl rfl

theorem execQMap_err (ht : execQMap s = .next t) : t.status.err = s.status.err := by
  obtain ⟨-, ⟨-, rfl⟩ | ⟨-, rfl⟩⟩ := execQMap_next ht
  · exact s.mapped.finishQnt_err
  · rfl

/-- Of QNT's steps only Q_CHECK raises (spec/41_quantizer.md R131). -/
theorem qntStep_keepsErrOrRaises (h : s.inQnt) (ht : sequencerStep s = .next t) : s.KeepsErrOrRaises t := by
  rcases qntPhase_cases _ h with hp | hp | hp | hp | hp
  · exact execQCheck_keepsErrOrRaises (sequencerStep_of_phase .qCheck hp (fun _ => rfl) ht)
  · obtain ⟨-, rfl⟩ := ifCells_next (sequencerStep_of_phase .qSample hp (fun _ => rfl) ht)
    exact .inl rfl
  · obtain ⟨-, rfl⟩ := ifCells_next (sequencerStep_of_phase .qCut hp (fun _ => rfl) ht)
    exact .inl rfl
  · cases sequencerStep_of_phase .qPad hp (fun _ => rfl) ht
    exact .inl rfl
  · exact .inl (execQMap_err (sequencerStep_of_phase .qMap hp (fun _ => rfl) ht))

/-! ### FRM -/

theorem State.finishFrm_err (s : State) : s.finishFrm.status.err = s.status.err := by
  cases hc : s.chain
  · rw [finishFrm_alone hc]; rfl
  · rw [finishFrm_chained hc]; rfl

theorem execFCheck_keepsErrOrRaises (ht : execFCheck s = .next t) : s.KeepsErrOrRaises t := by
  rcases execFCheck_cases s with ⟨-, e⟩ | ⟨-, -, e⟩ | ⟨-, -, -, e⟩ | ⟨-, -, -, e⟩ <;> cases e.symm.trans ht
  · exact .inr (.check _)
  · exact .inr (.check _)
  · exact .inr (.check _)
  · exact .inl rfl

theorem frameStep_err {bytes : List Byte} {p : BitVec 5} (ht : s.frameStep bytes p = .next t) :
    t.status.err = s.status.err := by
  obtain ⟨-, rfl⟩ := frameStep_next ht
  exact congrArg Status.err (s.putGs_status bytes)

theorem execFData_err (ht : execFData s = .next t) : t.status.err = s.status.err := by
  obtain ⟨-, -, rfl⟩ := execFData_next ht
  exact congrArg Status.err (State.putGs_status _ _)

theorem execFTrail_err (ht : execFTrail s = .next t) : t.status.err = s.status.err := by
  obtain ⟨-, rfl⟩ := ifCells_next ht
  exact (State.finishFrm_err _).trans (congrArg Status.err (s.putGs_status _))

/-- Of FRM's steps only F_CHECK raises (spec/42_gif_framer.md R161). -/
theorem frmStep_keepsErrOrRaises (h : s.inFrm) (ht : sequencerStep s = .next t) : s.KeepsErrOrRaises t := by
  rcases frmPhase_cases _ h with hp | hp | hp | hp | hp | hp | hp
  · exact execFCheck_keepsErrOrRaises (sequencerStep_of_phase .fCheck hp (fun _ => rfl) ht)
  · exact .inl (frameStep_err (sequencerStep_of_phase .fHead hp (fun _ => rfl) ht))
  · have hgct : execFGct s = .next t := sequencerStep_of_phase .fGct hp (fun _ => rfl) ht
    exact .inl (frameStep_err hgct)
  · exact .inl (frameStep_err (sequencerStep_of_phase .fGce hp (fun _ => rfl) ht))
  · exact .inl (frameStep_err (s := { s with pos := 0 }) (sequencerStep_of_phase .fImg hp (fun _ => rfl) ht))
  · exact .inl (execFData_err (sequencerStep_of_phase .fData hp (fun _ => rfl) ht))
  · exact .inl (execFTrail_err (sequencerStep_of_phase .fTrail hp (fun _ => rfl) ht))

/-! ### LZW -/

theorem State.finishLzw_err (s : State) : s.finishLzw.status.err = s.status.err := by
  cases hc : s.chain
  · rw [finishLzw_alone hc]; rfl
  · rw [finishLzw_chained hc]; rfl

theorem execLCheck_keepsErrOrRaises (ht : execLCheck s = .next t) : s.KeepsErrOrRaises t := by
  rcases execLCheck_cases s with ⟨-, e⟩ | ⟨-, -, e⟩ | ⟨-, -, -, e⟩ | ⟨-, -, -, e⟩ <;> cases e.symm.trans ht
  · exact .inr (.check _)
  · exact .inr (.check _)
  · exact .inr (.check _)
  · exact .inl rfl

section
variable (later : 16 < s.phase.toNat)
include later

/-- An LZW step after L_CHECK whose parts leave ERR: it raises only where one of its parts does. -/
theorem lzwOutcome_keepsErrOrRaises {r : Except Stop State}
    (hr : PartEnds (fun u => u.status.err = s.status.err) r) (ht : lzwOutcome s r = .next t) :
    s.KeepsErrOrRaises t := by
  rcases lzwOutcome_next ht with rfl | ⟨e, -, rfl⟩
  · exact .inl hr
  · exact .inr (.lzw e later)

theorem execLInit_keepsErrOrRaises (ht : execLInit s = .next t) : s.KeepsErrOrRaises t := by
  refine lzwOutcome_keepsErrOrRaises later
    (PartEnds.bind (emitCode_ends (t := s.seed) ⟨rfl, rfl⟩ _ _) fun u hu => ?_) ht
  exact congrArg Status.err hu.status

theorem execLFirst_keepsErrOrRaises (ht : execLFirst s = .next t) : s.KeepsErrOrRaises t := by
  refine lzwOutcome_keepsErrOrRaises later (PartEnds.bind (readSymbol_ends 0 s) fun u hu => ?_) ht
  exact congrArg Status.err hu.status

theorem execLLoopExtend_keepsErrOrRaises (ht : execLLoopExtend s = .next t) : s.KeepsErrOrRaises t := by
  refine lzwOutcome_keepsErrOrRaises later (PartEnds.bind (consumeSymbol_ends s) fun u hu => ?_) (inCase_next ht).2
  exact congrArg Status.err hu.status

theorem execLLoopInsert_keepsErrOrRaises (ht : execLLoopInsert s = .next t) : s.KeepsErrOrRaises t := by
  refine lzwOutcome_keepsErrOrRaises later (PartEnds.bind (consumeSymbol_ends s) fun u hu => ?_) (inCase_next ht).2
  refine PartEnds.bind (emitCode_ends hu _ _) fun v hv => ?_
  exact congrArg Status.err hv.status

theorem execLLoopReset_keepsErrOrRaises (ht : execLLoopReset s = .next t) : s.KeepsErrOrRaises t := by
  refine lzwOutcome_keepsErrOrRaises later (PartEnds.bind (consumeSymbol_ends s) fun u hu => ?_) (inCase_next ht).2
  refine PartEnds.bind (emitCode_ends hu _ _) fun v hv => PartEnds.bind (emitCode_ends hv _ _) fun x hx => ?_
  exact congrArg Status.err hx.status

theorem execLFinish_keepsErrOrRaises (ht : execLFinish s = .next t) : s.KeepsErrOrRaises t := by
  refine lzwOutcome_keepsErrOrRaises later
    (PartEnds.bind (emitCode_ends (s := s) ⟨rfl, rfl⟩ _ _) fun u hu => ?_) ht
  refine PartEnds.bind (emitCode_ends hu _ _) fun v hv => PartEnds.bind (flushAcc_ends hv) fun x hx => ?_
  exact x.finishLzw_err.trans (congrArg Status.err hx.status)

end

/-- In L_LOOP PHASE and the case select the row (spec/43_lzw.md R189). -/
theorem sequencerStep_of_loopCase {c : LoopCase} (i : Instr) (hp : s.phase = phLLoop) (hc : s.loopCase = c)
    (hd : decodeStep phLLoop c = .ok i) (ht : sequencerStep s = .next t) : exec i s = .next t := by
  rwa [sequencerStep_of_decode (by rw [hp, hc]; exact hd)] at ht

/-- In L_LOOP every case but END may raise (spec/43_lzw.md R189 to R193). -/
theorem lLoopStep_keepsErrOrRaises (hp : s.phase = phLLoop) (ht : sequencerStep s = .next t) :
    s.KeepsErrOrRaises t := by
  have later : 16 < s.phase.toNat := by simp [hp]
  cases hc : s.loopCase with
  | extend => exact execLLoopExtend_keepsErrOrRaises later (sequencerStep_of_loopCase .lLoopExtend hp hc rfl ht)
  | insert => exact execLLoopInsert_keepsErrOrRaises later (sequencerStep_of_loopCase .lLoopInsert hp hc rfl ht)
  | reset => exact execLLoopReset_keepsErrOrRaises later (sequencerStep_of_loopCase .lLoopReset hp hc rfl ht)
  | fin =>
    cases (inCase_next (sequencerStep_of_loopCase .lLoopEnd hp hc rfl ht)).2
    exact .inl rfl

theorem lzwStep_keepsErrOrRaises (h : s.inLzw) (ht : sequencerStep s = .next t) : s.KeepsErrOrRaises t := by
  rcases lzwPhase_cases _ h with hp | hp | hp | hp | hp
  · exact execLCheck_keepsErrOrRaises (sequencerStep_of_phase .lCheck hp (fun _ => rfl) ht)
  · exact execLInit_keepsErrOrRaises (by simp [hp]) (sequencerStep_of_phase .lInit hp (fun _ => rfl) ht)
  · exact execLFirst_keepsErrOrRaises (by simp [hp]) (sequencerStep_of_phase .lFirst hp (fun _ => rfl) ht)
  · exact lLoopStep_keepsErrOrRaises hp ht
  · exact execLFinish_keepsErrOrRaises (by simp [hp]) (sequencerStep_of_phase .lFinish hp (fun _ => rfl) ht)

/-! ### Every step of the sequencer -/

theorem sequencerStep_keepsErrOrRaises (h : s.Inv) (ht : sequencerStep s = .next t) : s.KeepsErrOrRaises t := by
  rcases h.cases with hp | hq | hf | hl
  · cases (sequencerStep_idle hp).symm.trans ht
    exact .inl rfl
  · exact qntStep_keepsErrOrRaises hq.phase ht
  · exact frmStep_keepsErrOrRaises hf.phase ht
  · exact lzwStep_keepsErrOrRaises hl.phase ht

/-- While BUSY = 1 ERR is 0, so a step that answers ERR = 1 raised (spec/10_state.md R23). -/
theorem sequencerStep_raises (h : s.Inv) (hbusy : s.status.busy = true) (ht : sequencerStep s = .next t)
    (herr : t.status.err = true) : s.Raises t := by
  obtain ⟨-, hquiet⟩ := h.flags.quiet hbusy
  exact (sequencerStep_keepsErrOrRaises h ht).resolve_left (by simp [herr, hquiet])

/-! ### The obligation -/

/-- Settles O57: the step raised, so its frame is that of error entry; the length registers it leaves were 0 already, as the
invariant says of a running unit and of the framer under BUILD. -/
theorem errorEntryLeaves : Obligations.ErrorEntryLeaves := by
  unfold Obligations.ErrorEntryLeaves
  intro s t hinv hhost hbusy ht herr
  have hraises := sequencerStep_raises hinv hbusy ((step_of_host_nil hhost).symm.trans ht) herr
  have hcheck := hraises.check_frame
  have hlen := hinv.lengths
  obtain ⟨e, he⟩ := hraises.frame
  rw [he]
  exact ⟨rfl, rfl, rfl, rfl, rfl, rfl, rfl, rfl, rfl, rfl, rfl, rfl, rfl, hlen.ncol_run, hlen.csblen_run, hlen.giflen_run,
    hlen.giflen_chain, rfl, rfl, rfl, rfl, rfl, hcheck⟩

end Sys2Proof.Machine
end

/-! ## The encodings (spec/30_encoding.md R80 to R83) -/

section
namespace Sys2Proof

/-- The decoder answers an instruction only off a row that PHASE and the case select. -/
theorem stepRow_of_decodeStep {p : BitVec 5} {c : LoopCase} {i : Instr} (h : decodeStep p c = .ok i) :
    ∃ r ∈ stepRows, r.applies p c = true ∧ r.instr = i := by
  unfold decodeStep at h
  split at h
  · rename_i r hr
    exact ⟨r, List.mem_of_find?_eq_some hr, List.find?_some (p := fun r : StepRow => r.applies p c) hr, Except.ok.inj h⟩
  · cases h

/-- Each step row holds a well-formed instruction, encoded by the row's PHASE value and case; only the L_LOOP rows have a
case. -/
theorem stepRows_encode :
    ∀ r ∈ stepRows, r.instr.wellFormed = true ∧ encode r.instr = .step r.phase (r.case.getD .fin) ∧
      (r.case = none ↔ r.phase ≠ 19) := by decide

theorem encode_of_decodeStep {p : BitVec 5} {c : LoopCase} {i : Instr} (h : decodeStep p c = .ok i) :
    i.wellFormed = true ∧ encode i = .step p (if p = 19 then c else .fin) := by
  obtain ⟨r, hr, happlies, rfl⟩ := stepRow_of_decodeStep h
  obtain ⟨hwf, hcode, hnone⟩ := stepRows_encode r hr
  simp only [StepRow.applies, Bool.and_eq_true, Bool.or_eq_true, beq_iff_eq] at happlies
  obtain ⟨rfl, hcase⟩ := happlies
  refine ⟨hwf, hcode.trans (congrArg _ ?_)⟩
  by_cases hp : r.phase = 19
  · rw [if_pos hp, hcase.resolve_left (fun e => hnone.1 e hp), Option.getD_some]
  · rw [if_neg hp, hnone.2 hp, Option.getD_none]

/-- The fields of a word off the opcode map are those of a reserved word (spec/30_encoding.md R82). -/
theorem wellFormed_decodeCommand (w : Word) : (decodeCommand w).wellFormed = true := by
  by_cases h : ∃ zero op, decodeCommand w = .reserved zero op
  · obtain ⟨zero, op, hw⟩ := h
    obtain ⟨hz, ho⟩ := fields_of_decodeCommand_reserved hw
    have hnum := (not_assigned_iff_toNat w).1 ((decodeCommand_reserved_iff_not_assigned w).1 ⟨zero, op, hw⟩)
    rw [hw, Instr.wellFormed, reservedWord, Bool.or_eq_true, bne_iff_ne]
    refine or_iff_not_imp_left.2 fun hzero => ?_
    have hz0 : zero.toNat = 0 := by rw [not_not.1 hzero]; rfl
    simp only [assignedOps, Bool.not_eq_true', List.contains_eq_mem, decide_eq_false_iff_not, List.mem_cons,
      List.not_mem_nil, or_false, ← BitVec.toNat_inj, BitVec.ofNat_eq_ofNat, BitVec.toNat_ofNat]
    omega
  · rcases Machine.decodeCommand_cases w with hw | hw
    · exact (by decide : ∀ i ∈ [Instr.nop, .quant, .frame, .lzw, .build, .clr, .srst], i.wellFormed = true) _ hw
    · exact absurd hw h

/-! ### The obligations -/

/-- Settles O1: instruction by instruction; a reserved word is none of the assigned ones. -/
theorem decodeEncodedInstruction : Obligations.DecodeEncodedInstruction := by
  unfold Obligations.DecodeEncodedInstruction
  intro i h
  cases i with
  | reserved zero op => exact Laws.RoundTrip.reserved zero op h
  | _ => rfl

/-- Settles O2: a command word is the encoding of its decoding; a step's code is that of the row it selects. -/
theorem encodeDecodedCode : Obligations.EncodeDecodedCode := by
  unfold Obligations.EncodeDecodedCode
  exact ⟨fun w => ⟨wellFormed_decodeCommand w, encode_decodeCommand w⟩, fun _ _ _ => encode_of_decodeStep⟩

end Sys2Proof
end

/-! ## Reset (spec/70_reset_and_hazards.md R250, spec/10_state.md R53) -/

section
namespace Sys2Proof.Machine

/-- Every register reads as right after reset (spec/10_state.md R53). -/
theorem readOffset_hardReset (s : State) (a : Nat) : s.hardReset.readOffset a = if a = 0x1C then 8 else 0 := by
  rw [← readOffset_reset]
  unfold State.readOffset
  cases regAt a with
  | some r => cases r <;> rfl
  | none => rfl

theorem Params.ok_default : defaultParams.Ok := by decide

/-- Settles O12: the RST move ends in the hardware reset; State.reset has the same register values. -/
theorem resetValues : Obligations.ResetValues := by
  unfold Obligations.ResetValues
  exact ⟨fun s rest => ⟨_, rfl, readOffset_hardReset _, rfl, rfl, rfl, rfl, rfl, rfl, rfl, rfl, rfl, rfl, rfl, rfl, rfl,
    rfl⟩, rfl, rfl, rfl, readOffset_reset, rfl, rfl, rfl, rfl, rfl, rfl, rfl, rfl⟩

/-- Settles O53: after reset the machine idles, its memories unwritten and its length registers 0. -/
theorem resetInvariant : Obligations.ResetInvariant := by
  unfold Obligations.ResetInvariant
  refine State.Idles.inv ?_
  exact
    { params := Params.ok_default
      csblen_le := Nat.zero_le _
      giflen_le := Nat.zero_le _
      ncol_le := Nat.zero_le _
      phase := rfl
      chain := rfl
      resting := Status.resting_atReset
      failed := by simp [State.reset]
      pix_wf := Memory.wf_unwritten _
      smp_wf := Memory.wf_unwritten _
      pal_wf := Memory.wf_unwritten _
      idx_wf := Memory.wf_unwritten _
      pfx_wf := Memory.wf_unwritten _
      sfx_wf := Memory.wf_unwritten _
      csb_wf := Memory.wf_unwritten _
      gif_wf := Memory.wf_unwritten _
      pix_within := Memory.within_unwritten _ _
      smp_within := Memory.within_unwritten _ _
      pal_within := Memory.within_unwritten _ _
      idx_within := Memory.within_unwritten _ _
      pfx_within := Memory.within_unwritten _ _
      sfx_within := Memory.within_unwritten _ _
      csb_within := Memory.within_unwritten _ _
      gif_within := Memory.within_unwritten _ _ }

end Sys2Proof.Machine
end

/-! ## The step and PHASE (spec/30_encoding.md R83, spec/40_commands.md R120) -/

section
namespace Sys2Proof.Machine

variable {s : State}

theorem step_of_pass {rest : List HostMove} (h : s.host = .pass :: rest) :
    step s = sequencerStep { s with host := rest } := by
  simp only [step, nextMove, h, takeMove]

theorem step_of_wait_busy {rest : List HostMove} (h : s.host = .wait :: rest) (hb : s.status.busy = true) :
    step s = sequencerStep s := by
  simp only [step, nextMove, h, takeMove, hb, if_true]

theorem step_of_wait_idle {rest : List HostMove} (h : s.host = .wait :: rest) (hb : s.status.busy = false) :
    step s = .next { s with host := rest } := by
  simp [step, nextMove, h, takeMove, hb]

/-- Only PHASE itself is reported as naming no step. -/
theorem eq_of_noSuchPhase {p q : BitVec 5} {c : LoopCase} (h : decodeStep p c = .error (.noSuchPhase q)) : q = p := by
  unfold decodeStep at h
  split at h
  · cases h
  · split at h <;> cases h
    rfl

theorem sequencerStep_stuck {p : BitVec 5} (h : decodeStep s.phase s.loopCase = .error (.noSuchPhase p)) :
    sequencerStep s = .fault (.noStep s.phase) := by
  unfold sequencerStep State.stepCode
  rw [decode, h, eq_of_noSuchPhase h]

/-- Settles O5: the table value by value, and the sequencer's step in each of the host's turns that leave it one. -/
theorem stepRunsSelectedPhase : Obligations.StepRunsSelectedPhase := by
  unfold Obligations.StepRunsSelectedPhase
  refine ⟨fun p c => ?table, fun s i rest hd => ⟨fun hhost => ?_, fun hhost => ?_, fun hhost hb => ?_⟩,
    fun s hp hhost => ?_, fun s rest hhost hb => step_of_wait_idle hhost hb, fun s p hd hhost => ?_⟩
  case table => cases c <;> revert p <;> decide
  · rw [step_of_host_nil hhost, sequencerStep_of_decode hd]
  · rw [step_of_pass hhost, sequencerStep_of_decode (s := { s with host := rest }) hd]
  · rw [step_of_wait_busy hhost hb, sequencerStep_of_decode hd]
  · rw [step_of_host_nil hhost, sequencerStep_idle hp]
  · rw [step_of_host_nil hhost, sequencerStep_stuck hd]

end Sys2Proof.Machine
end

/-! ## The size of the sample (spec/41_quantizer.md R133, R134) -/

section
namespace Sys2Proof.Machine

theorem sampleStride_pos (n : Nat) : 0 < sampleStride n := by
  rcases sampleStride_cases n with ⟨-, h⟩ | ⟨hlarge, h⟩ <;> rw [h] <;> omega

/-- An image of at most 100000 pixels is sampled whole. -/
theorem sampleCount_of_small {n : Nat} (h : n ≤ 100000) : sampleCount n = n := by
  rcases sampleStride_cases n with ⟨-, hs⟩ | ⟨hlarge, -⟩
  · rw [sampleCount, hs, ceilDiv, Nat.div_one, Nat.add_sub_cancel]
  · omega

/-- A larger image has fewer samples: STRIDE is at least 2, and COUNT is below 50000 (STRIDE + 1). -/
theorem sampleCount_of_large {n : Nat} (h : 100000 < n) : sampleCount n ≤ 75000 := by
  rcases sampleStride_cases n with ⟨hsmall, -⟩ | ⟨-, hs⟩
  · omega
  · rw [sampleCount, hs, ceilDiv]
    have hq : 2 ≤ n / 50000 := by omega
    have hlt : n < 50000 * (n / 50000) + 50000 := by omega
    generalize n / 50000 = q at *
    exact Nat.le_of_lt_succ ((Nat.div_lt_iff_lt_mul (by omega)).2 (by omega))

theorem sampleCount_pos {n : Nat} (h : 1 ≤ n) : 1 ≤ sampleCount n :=
  Nat.div_pos (by have := sampleStride_pos n; omega) (sampleStride_pos n)

/-- Every sampled pixel exists. -/
theorem sample_lt {n j : Nat} (h : j < sampleCount n) : j * sampleStride n < n := by
  have hpos := sampleStride_pos n
  have hle := (Nat.le_div_iff_mul_le hpos).1 (Nat.succ_le_of_lt h)
  rw [Nat.succ_mul] at hle
  omega

/-- Settles O17: what Q_SAMPLE stores is the sample's stride and size, which have these bounds. -/
theorem sampleBounds : Obligations.SampleBounds := by
  unfold Obligations.SampleBounds
  intro s hpos hmax
  obtain ⟨t, ht, -, hstride, hnsmp, -⟩ := qSampleFillsSmp s hmax
  have hstride' : t.stride.toNat = sampleStride s.count.toNat := hstride
  have hnsmp' : t.nsmp.toNat = sampleCount s.count.toNat := by rw [hnsmp, hstride', sampleCount, ceilDiv]
  refine ⟨t, ht, ?_⟩
  rw [hnsmp', hstride']
  refine ⟨sampleCount_pos hpos, sampleCount_le _, fun hsmall => ?_, sampleCount_of_large, fun j => sample_lt⟩
  rw [sampleCount_of_small hsmall] at hnsmp'
  exact BitVec.eq_of_toNat_eq (by rw [hnsmp', BitVec.toNat_setWidth, Nat.mod_eq_of_lt (by omega)])

end Sys2Proof.Machine
end

/-! ## The recursion of the median cut and its size (spec/41_quantizer.md R139, R141) -/

section
namespace Sys2Proof.Machine

@[simp] theorem cut_zero (B : List Colour) : cut 0 B = [mean B] := rfl

@[simp] theorem cut_nil (d : Nat) : cut d [] = [black] := by cases d <;> rfl

theorem sortedBy_perm (B : List Colour) (ch : Channel) : (sortedBy B ch).Perm B := (sortIsStableAscending B ch).1

/-- A bucket that is not empty is cut in its sorted order at floor(n / 2). -/
theorem cut_succ {B : List Colour} (hB : B ≠ []) (d : Nat) :
    ∃ lower upper, lower ++ upper = sortedBy B (widest B) ∧ lower.length = B.length / 2 ∧
      upper.length = (B.length + 1) / 2 ∧ cut (d + 1) B = cut d lower ++ cut d upper := by
  have hlen := (sortedBy_perm B (widest B)).length_eq
  have hcut : ∀ S, S = sortedBy B (widest B) →
      cut (d + 1) B = cut d (S.take (S.length / 2)) ++ cut d (S.drop (S.length / 2)) := by
    rintro S rfl
    exact if_neg (by simpa using hB)
  refine ⟨_, _, List.take_append_drop _ _, ?_, ?_, hcut _ rfl⟩
  · rw [List.length_take]
    omega
  · rw [List.length_drop]
    omega

theorem mean_singleton (c : Colour) : mean [c] = c := by
  have hmean : ∀ ch, meanOf [c] ch = channel c ch := by
    intro ch
    refine BitVec.eq_of_toNat_eq ((meanOf_toNat (List.cons_ne_nil c []) ch).trans ?_)
    simp only [sumOf, List.map_cons, List.map_nil, List.sum_cons, List.sum_nil, List.length_cons, List.length_nil]
    omega
  simp [mean, hmean, channel]

/-- A bucket of one colour has an empty lower half at each depth. -/
theorem cut_singleton (d : Nat) (c : Colour) : cut d [c] = List.replicate d black ++ [c] := by
  induction d with
  | zero => rw [cut_zero, mean_singleton]; rfl
  | succ d ih =>
    obtain ⟨lower, upper, hsplit, hlower, -, hcut⟩ := cut_succ (List.cons_ne_nil c []) d
    obtain rfl : lower = [] := by simpa using hlower
    have hupper : upper = [c] := List.perm_singleton.1 ((List.Perm.of_eq hsplit).trans (sortedBy_perm _ _))
    rw [hcut, hupper, ih, cut_nil, List.replicate_succ]
    rfl

/-- Settles O19: the split of the sorted bucket, and what it does to a bucket of none and of one colour. -/
theorem medianCutRecursion : Obligations.MedianCutRecursion := by
  unfold Obligations.MedianCutRecursion
  exact ⟨cut_zero, cut_nil, fun d B hB => cut_succ hB d, cut_singleton,
    fun d B => List.ne_nil_of_length_pos (cut_length_bounds d B).1⟩

/-- How many colours the cut gives depends on how many there are and on the depth. -/
theorem cut_length_congr (d : Nat) {B C : List Colour} (h : B.length = C.length) :
    (cut d B).length = (cut d C).length := by
  induction d generalizing B C with
  | zero => rfl
  | succ d ih =>
    rcases eq_or_ne B [] with rfl | hB
    · rw [List.length_eq_zero_iff.1 h.symm]
    · have hC : C ≠ [] := List.ne_nil_of_length_pos (h ▸ List.length_pos_of_ne_nil hB)
      obtain ⟨L, U, -, hL, hU, hcutB⟩ := cut_succ hB d
      obtain ⟨L', U', -, hL', hU', hcutC⟩ := cut_succ hC d
      rw [hcutB, hcutC, List.length_append, List.length_append, ih (hL.trans (h ▸ hL'.symm)),
        ih (hU.trans (h ▸ hU'.symm))]

theorem cut_length_succ {B L U : List Colour} (hB : B ≠ []) (hL : L.length = B.length / 2)
    (hU : U.length = (B.length + 1) / 2) (d : Nat) :
    (cut (d + 1) B).length = (cut d L).length + (cut d U).length := by
  obtain ⟨L', U', -, hL', hU', hcut⟩ := cut_succ hB d
  rw [hcut, List.length_append, cut_length_congr d (hL'.trans hL.symm), cut_length_congr d (hU'.trans hU.symm)]

/-- With colours enough for every bucket the cut is full. -/
theorem cut_length_full (d : Nat) {B : List Colour} (h : 2 ^ d ≤ B.length) : (cut d B).length = 2 ^ d := by
  induction d generalizing B with
  | zero => rfl
  | succ d ih =>
    rw [Nat.pow_succ] at h
    have hB : B ≠ [] := List.ne_nil_of_length_pos (by have := Nat.one_le_two_pow (n := d); omega)
    obtain ⟨L, U, -, hL, hU, hcut⟩ := cut_succ hB d
    rw [hcut, List.length_append, ih (by omega), ih (by omega), Nat.pow_succ, Nat.mul_two]

/-- Settles O23: the recursion of the length, and its bounds. -/
theorem cutSize : Obligations.CutSize := by
  unfold Obligations.CutSize
  refine ⟨fun _ => rfl, fun d => by rw [cut_nil]; rfl, fun d _ _ => cut_length_congr d,
    fun d _ _ _ hB hL hU => cut_length_succ hB hL hU d, fun d c => ?_, fun d B => ?_⟩
  · rw [cut_singleton, List.length_append, List.length_replicate]
    rfl
  · obtain ⟨hlo, hhi⟩ := cut_length_bounds d B
    exact ⟨hlo, hhi, cut_length_full d⟩

end Sys2Proof.Machine
end

/-! ## The GIF file (spec/30_encoding.md R89 to R98) -/

section
namespace Sys2Proof.Machine

/-! ### The sub-blocks of the image data -/

theorem subBlocks_nil : subBlocks [] = [] := rfl

theorem ceilDiv_255 (n : Nat) : ceilDiv n 255 = (n + 254) / 255 := by
  rw [ceilDiv, Nat.add_sub_assoc (by decide)]

/-- Data that are not empty: a length byte, at most 255 bytes, and the sub-blocks of the rest (spec/30_encoding.md R97). -/
theorem subBlocks_of_ne_nil {csb : List Byte} (h : csb ≠ []) :
    subBlocks csb = BitVec.ofNat 8 (min 255 csb.length) :: (csb.take 255 ++ subBlocks (csb.drop 255)) := by
  have hlen := List.length_pos_of_ne_nil h
  have hcount : ceilDiv csb.length 255 = ceilDiv (csb.drop 255).length 255 + 1 := by
    rw [List.length_drop, ceilDiv_255, ceilDiv_255]
    omega
  rw [subBlocks, hcount, List.range_succ_eq_map, List.flatMap_cons, List.flatMap_map, subBlocks]
  have hrest : ∀ j, BitVec.ofNat 8 (min 255 (csb.length - 255 * (j + 1))) :: (csb.drop (255 * (j + 1))).take 255 =
      BitVec.ofNat 8 (min 255 ((csb.drop 255).length - 255 * j)) :: ((csb.drop 255).drop (255 * j)).take 255 := by
    intro j
    rw [List.length_drop, List.drop_drop, Nat.mul_succ, Nat.sub_sub, Nat.add_comm]
  simp only [Nat.succ_eq_add_one, hrest, Nat.mul_zero, Nat.sub_zero, List.drop_zero, List.cons_append]

/-- Each 255 bytes or fewer cost one length byte. -/
theorem subBlocks_length (csb : List Byte) : (subBlocks csb).length = csb.length + (csb.length + 254) / 255 := by
  induction hn : csb.length using Nat.strong_induction_on generalizing csb with
  | _ n ih =>
    rcases eq_or_ne csb [] with rfl | hne
    · subst hn
      rfl
    · have hlen := List.length_pos_of_ne_nil hne
      rw [subBlocks_of_ne_nil hne, List.length_cons, List.length_append, List.length_take,
        ih _ (by rw [List.length_drop]; omega) (csb.drop 255) rfl, List.length_drop]
      omega

/-- The reader gives back the data and what follows their terminator (spec/42_gif_framer.md R169 (4)). -/
theorem readSubBlocks_subBlocks (fuel : Nat) (csb rest : List Byte) (h : csb.length < fuel) :
    readSubBlocks fuel (subBlocks csb ++ 0x00 :: rest) = some (csb, rest) := by
  induction fuel generalizing csb with
  | zero => omega
  | succ fuel ih =>
    rcases eq_or_ne csb [] with rfl | hne
    · rfl
    · have hlen := List.length_pos_of_ne_nil hne
      have hbyte : (BitVec.ofNat 8 (min 255 csb.length)).toNat = (csb.take 255).length := by
        rw [List.length_take]
        exact Nat.mod_eq_of_lt (by omega)
      have hzero : BitVec.ofNat 8 (min 255 csb.length) ≠ 0 := by
        intro h0
        rw [h0, List.length_take] at hbyte
        change 0 = _ at hbyte
        omega
      rw [subBlocks_of_ne_nil hne, List.cons_append, List.append_assoc, readSubBlocks, if_neg hzero, hbyte,
        if_neg (by rw [List.length_append]; omega), List.drop_left, List.take_left,
        ih (csb.drop 255) (by rw [List.length_drop]; omega), Option.map_some, List.take_append_drop]

/-! ### The blocks of the file -/

/-- Signature and Logical Screen Descriptor (spec/30_encoding.md R91, R92). -/
def gifHead (w h : BitVec 16) : List Byte :=
  [0x47, 0x49, 0x46, 0x38, 0x39, 0x61, lowByte w, highByte w, lowByte h, highByte h, 0xF7, 0x00, 0x00]

/-- Graphic Control Extension, Image Descriptor and LZW minimum code size (spec/30_encoding.md R94 to R96). -/
def gifImage (w h : BitVec 16) : List Byte :=
  [0x21, 0xF9, 0x04, 0x00, 0x00, 0x00, 0x00, 0x00] ++
    [0x2C, 0x00, 0x00, 0x00, 0x00, lowByte w, highByte w, lowByte h, highByte h, 0x00, 0x08]

/-- The file as the framer's steps write it. -/
theorem gifFile_eq (w h : BitVec 16) (pal csb : List Byte) :
    gifFile w h pal csb = gifHead w h ++ (pal ++ (gifImage w h ++ (subBlocks csb ++ [0x00, 0x3B]))) := by
  simp [gifFile, gifHead, gifImage]

/-- A 16-bit field, low byte first (spec/20_memory.md R65 (c)). -/
theorem lowByte_add_highByte (v : BitVec 16) : (lowByte v).toNat + 256 * (highByte v).toNat = v.toNat := by
  have hlt := v.isLt
  simp only [lowByte, highByte, BitVec.extractLsb'_toNat, Nat.shiftRight_eq_div_pow]
  omega

theorem getD_drop (l : List Byte) (i j : Nat) : (l.drop i).getD j 0 = l.getD (i + j) 0 := by
  rw [List.getD_eq_getElem?_getD, List.getD_eq_getElem?_getD, List.getElem?_drop]

/-- Settles O37: the file from offset 0, from 13, from 781 and from 800 on. -/
theorem gifFileLayout : Obligations.GifFileLayout := by
  unfold Obligations.GifFileLayout
  intro w h pal csb hpal
  dsimp only
  rw [gifFile_eq]
  have hdrop13 : ∀ l, (gifHead w h ++ l).drop 13 = l := fun l => rfl
  have hdrop781 : ∀ l, (gifHead w h ++ (pal ++ l)).drop 781 = l := by
    intro l
    rw [show 781 = 13 + pal.length by rw [hpal], ← List.drop_drop, hdrop13, List.drop_left]
  generalize hfile : gifHead w h ++ (pal ++ (gifImage w h ++ (subBlocks csb ++ [0x00, 0x3B]))) = file
  have himage : file.drop 781 = gifImage w h ++ (subBlocks csb ++ [0x00, 0x3B]) := hfile ▸ hdrop781 _
  have hdata : file.drop 800 = subBlocks csb ++ [0x00, 0x3B] := by
    rw [show 800 = 781 + 19 by rfl, ← List.drop_drop, himage]
    rfl
  have hat : ∀ i, file.getD (781 + i) 0 = (gifImage w h ++ (subBlocks csb ++ [0x00, 0x3B])).getD i 0 := by
    intro i
    rw [← getD_drop, himage]
  have hw := lowByte_add_highByte w
  have hh := lowByte_add_highByte h
  refine ⟨?length, ?_, ?_, ?_, ?_, ?palette, ?_, ?_, ?_, ?_, hat 17, hat 18, ?data⟩
  case length =>
    rw [← hfile, List.length_append, List.length_append, List.length_append, List.length_append, hpal, subBlocks_length]
    simp only [gifHead, gifImage, List.length_append, List.length_cons, List.length_nil]
    omega
  case palette => rw [← hfile, hdrop13, ← hpal, List.take_left]
  case data => rw [hdata]; exact readSubBlocks_subBlocks _ csb [0x3B] (Nat.lt_succ_self _)
  · rw [← hfile]; rfl
  · rw [← hfile]; exact hw
  · rw [← hfile]; exact hh
  · rw [← hfile]; rfl
  · rw [himage]; rfl
  · rw [show 789 = 781 + 8 by rfl, ← List.drop_drop, himage]; rfl
  · rw [show 794 = 781 + 13 by rfl, show 795 = 781 + 14 by rfl, hat, hat]; exact hw
  · rw [show 796 = 781 + 15 by rfl, show 797 = 781 + 16 by rfl, hat, hat]; exact hh

end Sys2Proof.Machine
end

/-! ## The code stream (spec/30_encoding.md R85 to R88, spec/43_lzw.md R194, R195, R198) -/

section
namespace Sys2Proof.Machine

variable {mcs next cw w k c n : Nat} {D : Dict} {ks : List Nat}

/-! ### The loop of the summary, case by case -/

/-- CW after an insertion (spec/43_lzw.md R191). -/
def grownWidth (next cw : Nat) : Nat := if 2 ^ cw < next + 1 ∧ cw < 12 then cw + 1 else cw

theorem lzwLoop_nil : lzwLoop mcs [] next cw D w = [⟨w, cw⟩, ⟨2 ^ mcs + 1, cw⟩] := rfl

theorem lzwLoop_extend (h : dictGet D w k = some c) :
    lzwLoop mcs (k :: ks) next cw D w = lzwLoop mcs ks next cw D c := by
  rw [lzwLoop, h]

theorem lzwLoop_insert (h : dictGet D w k = none) (hroom : next < 4096) :
    lzwLoop mcs (k :: ks) next cw D w =
      ⟨w, cw⟩ :: lzwLoop mcs ks (next + 1) (grownWidth next cw) (((w, k), next) :: D) k := by
  rw [lzwLoop, h]
  exact if_pos hroom

theorem lzwLoop_reset (h : dictGet D w k = none) (hfull : 4096 ≤ next) :
    lzwLoop mcs (k :: ks) next cw D w =
      ⟨w, cw⟩ :: ⟨2 ^ mcs, cw⟩ :: lzwLoop mcs ks (2 ^ mcs + 2) (mcs + 1) [] k := by
  rw [lzwLoop, h]
  exact if_neg (Nat.not_lt.2 hfull)

/-- What the loop does with its next byte: EXTEND, INSERT or RESET (spec/43_lzw.md R189). -/
theorem lzwLoop_cases (D : Dict) (w k next : Nat) :
    (∃ c, dictGet D w k = some c) ∨ (dictGet D w k = none ∧ next < 4096) ∨ (dictGet D w k = none ∧ 4096 ≤ next) := by
  cases h : dictGet D w k with
  | some c => exact .inl ⟨c, rfl⟩
  | none => exact .inr ((Nat.lt_or_ge next 4096).imp (⟨rfl, ·⟩) (⟨rfl, ·⟩))

theorem grownWidth_bounds {lo : Nat} (h : lo ≤ cw ∧ cw ≤ 12) (next : Nat) :
    lo ≤ grownWidth next cw ∧ grownWidth next cw ≤ 12 := by
  unfold grownWidth
  split <;> omega

/-! ### How many bits and bytes the codes take -/

/-- The bits of a code sequence. -/
def bitCount (codes : List CodeOut) : Nat := (codes.map CodeOut.bits).sum

@[simp] theorem bitCount_nil : bitCount [] = 0 := rfl

@[simp] theorem bitCount_cons (c : CodeOut) (codes : List CodeOut) :
    bitCount (c :: codes) = c.bits + bitCount codes := by
  simp [bitCount]

theorem codeBits_cons (c : CodeOut) (codes : List CodeOut) :
    codeBits (c :: codes) = (List.range c.bits).map c.code.testBit ++ codeBits codes := rfl

theorem codeBits_length (codes : List CodeOut) : (codeBits codes).length = bitCount codes := by
  induction codes with
  | nil => rfl
  | cons c codes ih => rw [codeBits_cons, List.length_append, ih, List.length_map, List.length_range, bitCount_cons]

theorem packBits_length (B : List Bool) : (packBits B).length = (B.length + 7) / 8 := by
  rw [packBits, List.length_map, List.length_range, ceilDiv, Nat.add_sub_assoc (by decide)]

theorem lzwStream_length (mcs : Nat) (idx : List Nat) :
    (lzwStream mcs idx).length = (bitCount (lzwCodes mcs idx) + 7) / 8 := by
  rw [lzwStream, packBits_length, codeBits_length]

/-- The rest of a run takes 16 bits a byte at most: an insertion emits 12 and so saves 4, and a reset, which emits 24, comes
after two insertions at least, since a fresh table is not nearly full. -/
theorem bitCount_lzwLoop_le (hmcs : mcs ≤ 8) (hcw : cw ≤ 12) :
    bitCount (lzwLoop mcs ks next cw D w) ≤ 16 * ks.length + 24 + 4 * (next - 4094) := by
  induction ks generalizing next cw D w with
  | nil =>
    rw [lzwLoop_nil, bitCount_cons, bitCount_cons, bitCount_nil]
    dsimp only
    omega
  | cons k ks ih =>
    rw [List.length_cons]
    rcases lzwLoop_cases D w k next with ⟨c, h⟩ | ⟨h, hroom⟩ | ⟨h, hfull⟩
    · have hrest := ih (next := next) (D := D) (w := c) hcw
      rw [lzwLoop_extend h]
      omega
    · have hrest := ih (next := next + 1) (D := ((w, k), next) :: D) (w := k)
        (grownWidth_bounds ⟨Nat.zero_le _, hcw⟩ next).2
      rw [lzwLoop_insert h hroom, bitCount_cons]
      dsimp only
      omega
    · have hfirst : 2 ^ mcs ≤ 2 ^ 8 := Nat.pow_le_pow_right (by decide) hmcs
      have hrest := ih (next := 2 ^ mcs + 2) (cw := mcs + 1) (D := []) (w := k) (by omega)
      rw [lzwLoop_reset h hfull, bitCount_cons, bitCount_cons]
      dsimp only
      omega

/-- The last two codes of a run at least. -/
theorem le_bitCount_lzwLoop (hmcs : mcs ≤ 8) (hcw : mcs + 1 ≤ cw ∧ cw ≤ 12) :
    2 * (mcs + 1) ≤ bitCount (lzwLoop mcs ks next cw D w) := by
  induction ks generalizing next cw D w with
  | nil =>
    rw [lzwLoop_nil, bitCount_cons, bitCount_cons, bitCount_nil]
    dsimp only
    omega
  | cons k ks ih =>
    rcases lzwLoop_cases D w k next with ⟨c, h⟩ | ⟨h, hroom⟩ | ⟨h, hfull⟩
    · rw [lzwLoop_extend h]
      exact ih hcw
    · rw [lzwLoop_insert h hroom, bitCount_cons]
      exact (ih (grownWidth_bounds hcw next)).trans (Nat.le_add_left _ _)
    · rw [lzwLoop_reset h hfull, bitCount_cons, bitCount_cons]
      exact (ih ⟨Nat.le_refl _, by omega⟩).trans ((Nat.le_add_left _ _).trans (Nat.le_add_left _ _))

/-- Settles O50: the Clear code, then the bounds on the loop's bits. -/
theorem streamLengthBound : Obligations.StreamLengthBound := by
  unfold Obligations.StreamLengthBound
  intro mcs idx h2 h8 hne
  obtain ⟨k, ks, rfl⟩ := List.exists_cons_of_ne_nil hne
  have hfirst : 2 ^ mcs ≤ 2 ^ 8 := Nat.pow_le_pow_right (by decide) h8
  have hle := bitCount_lzwLoop_le (ks := ks) (next := 2 ^ mcs + 2) (D := []) (w := k) h8 (by omega : mcs + 1 ≤ 12)
  have hge := le_bitCount_lzwLoop (ks := ks) (next := 2 ^ mcs + 2) (D := []) (w := k) h8
    ⟨Nat.le_refl (mcs + 1), by omega⟩
  rw [lzwStream_length, lzwCodes, bitCount_cons, List.length_cons]
  dsimp only
  omega

/-! ### The registers of the summary in order -/

/-- A code that stands for bytes: a literal or an entry of a table of `next` codes. -/
abbrev IsData (mcs next c : Nat) : Prop := c < next ∧ c ≠ 2 ^ mcs ∧ c ≠ 2 ^ mcs + 1

/-- A dictionary as insertions build it up from the seeded one, to `next` codes: newest first, each
entry extending an earlier code (spec/10_state.md R51 (5)). -/
inductive Built (mcs : Nat) : Dict → Nat → Prop
  | seeded : Built mcs [] (2 ^ mcs + 2)
  | insert {D : Dict} {n w : Nat} (older : Built mcs D n) (pre : IsData mcs n w) (k : Nat) :
      Built mcs (((w, k), n) :: D) (n + 1)

theorem Built.first_le (h : Built mcs D n) : 2 ^ mcs + 2 ≤ n := by
  induction h with
  | seeded => exact Nat.le_refl _
  | insert _ _ _ ih => omega

/-- An entry's code is beyond the control codes, and the code it extends is an earlier one. -/
theorem Built.get_bounds (h : Built mcs D n) (hget : dictGet D w k = some c) :
    2 ^ mcs + 2 ≤ c ∧ c < n ∧ w < c := by
  induction h with
  | seeded => cases hget
  | @insert D n w' older pre k' ih =>
    rw [dictGet] at hget
    split at hget
    · rename_i heq
      obtain rfl := Option.some.inj hget
      exact ⟨older.first_le, Nat.lt_succ_self _, heq.1 ▸ pre.1⟩
    · obtain ⟨hlo, hhi, hlt⟩ := ih hget
      exact ⟨hlo, Nat.lt_succ_of_lt hhi, hlt⟩

/-- The registers of the summary's loop in order: MCS, the table size, the width, the dictionary, the pending code
(spec/10_state.md R51 (3) to (5)). -/
structure CoderOk (mcs next cw : Nat) (D : Dict) (w : Nat) : Prop where
  mcs_range : 2 ≤ mcs ∧ mcs ≤ 8
  next_le : next ≤ 4096
  width : mcs + 1 ≤ cw ∧ cw ≤ 12
  fits : next ≤ 2 ^ cw
  built : Built mcs D next
  pending : IsData mcs next w

theorem CoderOk.seeded (hmcs : 2 ≤ mcs ∧ mcs ≤ 8) (hk : k < 2 ^ mcs) : CoderOk mcs (2 ^ mcs + 2) (mcs + 1) [] k := by
  obtain ⟨h4, h256, hpow⟩ := two_pow_mincs hmcs.1 hmcs.2
  exact
    { mcs_range := hmcs
      next_le := by omega
      width := by omega
      fits := by omega
      built := .seeded
      pending := by omega }

theorem CoderOk.extend (h : CoderOk mcs next cw D w) (hget : dictGet D w k = some c) : CoderOk mcs next cw D c := by
  obtain ⟨hlo, hhi, -⟩ := h.built.get_bounds hget
  exact { h with pending := ⟨hhi, by omega, by omega⟩ }

theorem CoderOk.insert (h : CoderOk mcs next cw D w) (hroom : next < 4096) (hk : k < 2 ^ mcs) :
    CoderOk mcs (next + 1) (grownWidth next cw) (((w, k), next) :: D) k := by
  have hfirst := h.built.first_le
  exact
    { mcs_range := h.mcs_range
      next_le := hroom
      width := grownWidth_bounds h.width next
      built := h.built.insert h.pending k
      pending := by omega
      fits := by
        have hfits := h.fits
        unfold grownWidth
        split
        · rw [Nat.pow_succ]
          omega
        · rename_i hstay
          by_cases hcw : cw < 12
          · omega
          · have hpow : 2 ^ 12 ≤ 2 ^ cw := Nat.pow_le_pow_right (by decide) (Nat.le_of_not_lt hcw)
            omega }

theorem CoderOk.clear_fits (h : CoderOk mcs next cw D w) : 2 ^ mcs < 2 ^ cw := by
  have := h.built.first_le
  have := h.fits
  omega

theorem CoderOk.eoi_fits (h : CoderOk mcs next cw D w) : 2 ^ mcs + 1 < 2 ^ cw := by
  have := h.built.first_le
  have := h.fits
  omega

theorem CoderOk.pending_fits (h : CoderOk mcs next cw D w) : w < 2 ^ cw := h.pending.1.trans_le h.fits

/-! ### The grammar -/

/-- A code that fits its width, from mcs + 1 to 12 bits (spec/30_encoding.md R86). -/
abbrev CodeOut.Fits (mcs : Nat) (c : CodeOut) : Prop := mcs + 1 ≤ c.bits ∧ c.bits ≤ 12 ∧ c.code < 2 ^ c.bits

/-- What may stand next to each other: nothing follows End-of-Information, and data follow Clear (spec/30_encoding.md R88). -/
abbrev CodeOut.MayPrecede (mcs : Nat) (a b : CodeOut) : Prop :=
  a.code ≠ 2 ^ mcs + 1 ∧ (a.code = 2 ^ mcs → b.code ≠ 2 ^ mcs ∧ b.code ≠ 2 ^ mcs + 1)

/-- The codes of the rest of a run, after any code but End-of-Information. -/
structure Grammar (mcs : Nat) (codes : List CodeOut) : Prop where
  last : codes.getLast?.map CodeOut.code = some (2 ^ mcs + 1)
  fits : ∀ c ∈ codes, c.Fits mcs
  chain : ∀ a : CodeOut, a.code ≠ 2 ^ mcs + 1 → (a :: codes).IsChain (CodeOut.MayPrecede mcs)

theorem Grammar.ne_nil {codes : List CodeOut} (h : Grammar mcs codes) : codes ≠ [] := by
  rintro rfl
  exact absurd h.last (by simp)

/-- A data code before the rest of a run, or a Clear code that data precede. -/
theorem Grammar.cons {codes : List CodeOut} {c : CodeOut} (h : Grammar mcs codes) (hfits : c.Fits mcs)
    (hdata : c.code ≠ 2 ^ mcs ∧ c.code ≠ 2 ^ mcs + 1) : Grammar mcs (c :: codes) where
  last := by
    rw [List.getLast?_cons_of_ne_nil h.ne_nil]
    exact h.last
  fits := List.forall_mem_cons.2 ⟨hfits, h.fits⟩
  chain a ha := List.isChain_cons_cons.2 ⟨⟨ha, fun _ => hdata⟩, h.chain c hdata.2⟩

theorem Grammar.cons_clear {codes : List CodeOut} {c d : CodeOut} (h : Grammar mcs codes) (hfits : c.Fits mcs)
    (hdata : c.code ≠ 2 ^ mcs ∧ c.code ≠ 2 ^ mcs + 1) (hd : d.Fits mcs) (hclear : d.code = 2 ^ mcs) :
    Grammar mcs (c :: d :: codes) where
  last := by
    rw [List.getLast?_cons_cons, List.getLast?_cons_of_ne_nil h.ne_nil]
    exact h.last
  fits := List.forall_mem_cons.2 ⟨hfits, List.forall_mem_cons.2 ⟨hd, h.fits⟩⟩
  chain a ha := List.isChain_cons_cons.2 ⟨⟨ha, fun _ => hdata⟩, List.isChain_cons_cons.2
    ⟨⟨hdata.2, fun e => absurd e hdata.1⟩, h.chain d (by omega)⟩⟩

theorem grammar_lzwLoop (h : CoderOk mcs next cw D w) (hks : ∀ k ∈ ks, k < 2 ^ mcs) :
    Grammar mcs (lzwLoop mcs ks next cw D w) := by
  have hpending : ∀ {next cw D w}, CoderOk mcs next cw D w → CodeOut.Fits mcs ⟨w, cw⟩ := fun h =>
    ⟨h.width.1, h.width.2, h.pending_fits⟩
  induction ks generalizing next cw D w with
  | nil =>
    exact
      { last := rfl
        fits := by
          simp only [lzwLoop_nil, List.forall_mem_cons]
          exact ⟨hpending h, ⟨h.width.1, h.width.2, h.eoi_fits⟩, fun _ hc => absurd hc List.not_mem_nil⟩
        chain := fun a ha => by
          obtain ⟨-, hclear, heoi⟩ := h.pending
          simp only [lzwLoop_nil, List.isChain_cons_cons, List.isChain_singleton, and_true]
          exact ⟨⟨ha, fun _ => ⟨hclear, heoi⟩⟩, heoi, fun e => absurd e hclear⟩ }
  | cons k ks ih =>
    obtain ⟨hk, hks⟩ := List.forall_mem_cons.1 hks
    rcases lzwLoop_cases D w k next with ⟨c, hget⟩ | ⟨hget, hroom⟩ | ⟨hget, hfull⟩
    · rw [lzwLoop_extend hget]
      exact ih (h.extend hget) hks
    · rw [lzwLoop_insert hget hroom]
      exact (ih (h.insert hroom hk) hks).cons (hpending h) h.pending.2
    · rw [lzwLoop_reset hget hfull]
      exact (ih (.seeded h.mcs_range hk) hks).cons_clear (hpending h) h.pending.2
        ⟨h.width.1, h.width.2, h.clear_fits⟩ rfl

/-- Settles O49: the Clear code, then the grammar of the loop; neighbours are links of the chain. -/
theorem codeStreamGrammar : Obligations.CodeStreamGrammar := by
  unfold Obligations.CodeStreamGrammar
  intro mcs idx h2 h8 hne hidx
  obtain ⟨k, ks, rfl⟩ := List.exists_cons_of_ne_nil hne
  obtain ⟨hk, hks⟩ := List.forall_mem_cons.1 hidx
  have hg := grammar_lzwLoop (.seeded ⟨h2, h8⟩ hk) hks
  refine ⟨rfl, ?_, List.forall_mem_cons.2 ⟨⟨Nat.le_refl _, by dsimp only; omega, ?_⟩, hg.fits⟩, fun a b hab => ?_⟩
  · rw [lzwCodes, List.getLast?_cons_of_ne_nil hg.ne_nil]
    exact hg.last
  · exact Nat.pow_lt_pow_right (by decide) (Nat.lt_succ_self _)
  · have hchain := hg.chain ⟨2 ^ mcs, mcs + 1⟩ (Nat.ne_of_lt (Nat.lt_succ_self _))
    obtain ⟨before, after, hcodes⟩ := hab
    rw [lzwCodes] at hcodes
    rw [← hcodes] at hchain
    exact (List.isChain_cons_cons.1 hchain.left_of_append.right_of_append).1

end Sys2Proof.Machine
end

/-! ## Bits and bytes (spec/30_encoding.md R87) -/

section
namespace Sys2Proof.Machine

/-! ### The number of a list of bits -/

theorem bitsValue_testBit (c n : Nat) : bitsValue ((List.range n).map c.testBit) = c % 2 ^ n := by
  induction n generalizing c with
  | zero => rw [Nat.pow_zero, Nat.mod_one]; rfl
  | succ n ih =>
    have htail : (List.range n).map (c.testBit ∘ Nat.succ) = (List.range n).map (c / 2).testBit :=
      List.map_congr_left fun j _ => Nat.testBit_succ c j
    rw [List.range_succ_eq_map, List.map_cons, List.map_map, htail, bitsValue, ih, Nat.pow_succ', Nat.mod_mul,
      Nat.toNat_testBit, Nat.pow_zero, Nat.div_one]

theorem map_zero_testBit (n : Nat) : (List.range n).map (Nat.testBit 0) = List.replicate n false := by
  simp [List.eq_replicate_iff]

theorem map_testBit_bitsValue (B : List Bool) (n : Nat) (h : B.length ≤ n) :
    (List.range n).map (bitsValue B).testBit = B ++ List.replicate (n - B.length) false := by
  induction B generalizing n with
  | nil => exact map_zero_testBit n
  | cons b B ih =>
    obtain ⟨m, rfl⟩ : ∃ m, n = m + 1 := ⟨n - 1, by rw [List.length_cons] at h; omega⟩
    have hlow : (b.toNat + 2 * bitsValue B).testBit 0 = b := by cases b <;> simp [Nat.testBit_zero]
    have htail : (b.toNat + 2 * bitsValue B).testBit ∘ Nat.succ = (bitsValue B).testBit := by
      funext j
      have hhalf : (b.toNat + 2 * bitsValue B) / 2 = bitsValue B := by have := b.toNat_le; omega
      rw [Function.comp_apply, Nat.succ_eq_add_one, Nat.testBit_succ, hhalf]
    rw [List.range_succ_eq_map, List.map_cons, List.map_map, bitsValue, hlow, htail,
      ih m (by rw [List.length_cons] at h; omega), List.length_cons, Nat.add_sub_add_right, List.cons_append]

/-! ### Packing -/

theorem packBits_nil : packBits [] = [] := rfl

/-- Bits that are there: a byte of the first eight, and the bytes of the rest. -/
theorem packBits_of_ne_nil {B : List Bool} (h : B ≠ []) :
    packBits B = BitVec.ofNat 8 (bitsValue (B.take 8)) :: packBits (B.drop 8) := by
  have hlen := List.length_pos_of_ne_nil h
  have hcount : ceilDiv B.length 8 = ceilDiv (B.drop 8).length 8 + 1 := by
    rw [List.length_drop, ceilDiv, ceilDiv]
    omega
  have hrest : ∀ i, B.drop (8 * (i + 1)) = (B.drop 8).drop (8 * i) := by
    intro i
    rw [List.drop_drop, Nat.mul_succ, Nat.add_comm]
  rw [packBits, hcount, List.range_succ_eq_map, List.map_cons, List.map_map, packBits]
  simp only [Function.comp_def, Nat.succ_eq_add_one, hrest, Nat.mul_zero, List.drop_zero]

/-- The bits of one byte. -/
theorem streamBits_byte (v : Nat) : streamBits [BitVec.ofNat 8 v] = (List.range 8).map v.testBit := by
  simpa using streamBits_bytes v 1

theorem streamBits_cons (b : Byte) (bytes : List Byte) : streamBits (b :: bytes) = streamBits [b] ++ streamBits bytes :=
  streamBits_append [b] bytes

theorem streamBits_length (bytes : List Byte) : (streamBits bytes).length = 8 * bytes.length := by
  induction bytes with
  | nil => rfl
  | cons b bytes ih =>
    rw [streamBits_cons, List.length_append, ih, List.length_cons]
    simp [streamBits]
    omega

/-- The bits of the packed bytes: those packed, and zero bits. -/
theorem streamBits_packBits (B : List Bool) :
    ∃ m, streamBits (packBits B) = B ++ List.replicate m false := by
  induction hn : B.length using Nat.strong_induction_on generalizing B with
  | _ n ih =>
    rcases eq_or_ne B [] with rfl | hne
    · exact ⟨0, rfl⟩
    · have hlen := List.length_pos_of_ne_nil hne
      obtain ⟨m, hm⟩ := ih _ (by rw [List.length_drop]; omega) (B.drop 8) rfl
      rw [packBits_of_ne_nil hne, streamBits_cons, streamBits_byte,
        map_testBit_bitsValue _ 8 (by rw [List.length_take]; omega), hm]
      by_cases hlong : 8 ≤ B.length
      · refine ⟨m, ?_⟩
        have hfull : 8 - (B.take 8).length = 0 := by rw [List.length_take]; omega
        rw [hfull, List.replicate_zero, List.append_nil, ← List.append_assoc, List.take_append_drop]
      · refine ⟨8 - (B.take 8).length + m, ?_⟩
        rw [List.drop_of_length_le (by omega), List.take_of_length_le (by omega), List.nil_append, List.append_assoc,
          List.replicate_append_replicate]

/-- Whole bytes before further bits are packed as they stand. -/
theorem packBits_streamBits_append (bytes : List Byte) (B : List Bool) :
    packBits (streamBits bytes ++ B) = bytes ++ packBits B := by
  induction bytes with
  | nil => rfl
  | cons b bytes ih =>
    have hbits : streamBits [b] = (List.range 8).map b.toNat.testBit := by
      rw [← streamBits_byte, BitVec.ofNat_toNat, BitVec.setWidth_eq]
    have hlen : (streamBits [b]).length = 8 := streamBits_length [b]
    have hbyte : BitVec.ofNat 8 (bitsValue (streamBits [b])) = b := by
      rw [hbits, bitsValue_testBit, Nat.mod_eq_of_lt b.isLt, BitVec.ofNat_toNat, BitVec.setWidth_eq]
    rw [streamBits_cons, List.append_assoc,
      packBits_of_ne_nil (List.ne_nil_of_length_pos (by rw [List.length_append, hlen]; omega)), List.take_left' hlen,
      List.drop_left' hlen, hbyte, ih, List.cons_append]

end Sys2Proof.Machine
end

/-! ## The standard decoder (spec/93_implementation_defined.md G3, spec/43_lzw.md R197)

The decoder's table is one entry behind the encoder's: it learns an entry's last byte from the first byte of the next code. -/

section
namespace Sys2Proof.Machine

variable {mcs next cw w k c n fuel : Nat} {D : Dict} {ks : List Nat} {B : List Bool} {T : DecTable}

/-! ### One code read -/

/-- Reading n bits of a code off a bit string. -/
theorem code_read (hc : c < 2 ^ n) (B : List Bool) :
    ¬((List.range n).map c.testBit ++ B).length < n ∧
      bitsValue (((List.range n).map c.testBit ++ B).take n) = c ∧ ((List.range n).map c.testBit ++ B).drop n = B := by
  have hlen : ((List.range n).map c.testBit).length = n := by rw [List.length_map, List.length_range]
  refine ⟨by rw [List.length_append, hlen]; omega, ?_, List.drop_left' hlen⟩
  rw [List.take_left' hlen, bitsValue_testBit, Nat.mod_eq_of_lt hc]

/-- The decoder on a code after a Clear code (spec/93_implementation_defined.md G3). -/
theorem decLoop_read_none (hc : c < 2 ^ n) :
    decLoop mcs (fuel + 1) ((List.range n).map c.testBit ++ B) T next n none =
      if c = 2 ^ mcs then decLoop mcs fuel B [] (2 ^ mcs + 2) (mcs + 1) none
      else if c = 2 ^ mcs + 1 then []
      else decStr (2 ^ mcs) T c ++ decLoop mcs fuel B T next n (some c) := by
  obtain ⟨hlong, hvalue, hrest⟩ := code_read hc B
  rw [decLoop, if_neg hlong]
  dsimp only
  rw [hvalue, hrest]

/-- The decoder on a code after the code p (spec/93_implementation_defined.md G3). -/
theorem decLoop_read_some (hc : c < 2 ^ n) (p : Nat) :
    decLoop mcs (fuel + 1) ((List.range n).map c.testBit ++ B) T next n (some p) =
      if c = 2 ^ mcs then decLoop mcs fuel B [] (2 ^ mcs + 2) (mcs + 1) none
      else if c = 2 ^ mcs + 1 then []
      else if next < c then []
      else
        let e := if c < next then decStr (2 ^ mcs) T c
          else decStr (2 ^ mcs) T p ++ (decStr (2 ^ mcs) T p).take 1
        let entry := decStr (2 ^ mcs) T p ++ e.take 1
        if next < 4096 then
          e ++ decLoop mcs fuel B ((next, entry) :: T) (next + 1)
            (if next + 1 = 2 ^ n ∧ n < 12 then n + 1 else n) (some c)
        else e ++ decLoop mcs fuel B T next n (some c) := by
  obtain ⟨hlong, hvalue, hrest⟩ := code_read hc B
  rw [decLoop, if_neg hlong]
  dsimp only
  rw [hvalue, hrest]

theorem decLoop_clear (h : 2 ^ mcs < 2 ^ n) (prev : Option Nat) :
    decLoop mcs (fuel + 1) ((List.range n).map (2 ^ mcs).testBit ++ B) T next n prev =
      decLoop mcs fuel B [] (2 ^ mcs + 2) (mcs + 1) none := by
  cases prev with
  | none => rw [decLoop_read_none h, if_pos rfl]
  | some p => rw [decLoop_read_some h, if_pos rfl]

/-- The first code after a Clear code stands for itself; nothing is learned from it. -/
theorem decLoop_first (hdata : c ≠ 2 ^ mcs ∧ c ≠ 2 ^ mcs + 1) (hc : c < 2 ^ n) :
    decLoop mcs (fuel + 1) ((List.range n).map c.testBit ++ B) T next n none =
      decStr (2 ^ mcs) T c ++ decLoop mcs fuel B T next n (some c) := by
  rw [decLoop_read_none hc, if_neg hdata.1, if_neg hdata.2]

theorem decLoop_stops (heoi : 2 ^ mcs + 1 < 2 ^ n) (prev : Option Nat) :
    decLoop mcs (fuel + 1) ((List.range n).map (2 ^ mcs + 1).testBit ++ B) T next n prev = [] := by
  cases prev with
  | none => rw [decLoop_read_none heoi, if_neg (Nat.succ_ne_self _), if_pos rfl]
  | some p => rw [decLoop_read_some heoi, if_neg (Nat.succ_ne_self _), if_pos rfl]

/-- End-of-Information ends the decoding, also where it is read with a zero bit too many, or the bits run out. -/
theorem decLoop_eoi (heoi : 2 ^ mcs + 1 < 2 ^ n) {width : Nat} (hwidth : n ≤ width) (m : Nat) (prev : Option Nat) :
    decLoop mcs fuel ((List.range n).map (2 ^ mcs + 1).testBit ++ List.replicate m false) T next width prev = [] := by
  cases fuel with
  | zero => rfl
  | succ fuel =>
    by_cases hshort : n + m < width
    · have hlen : ((List.range n).map (2 ^ mcs + 1).testBit ++ List.replicate m false).length = n + m := by
        simp only [List.length_append, List.length_map, List.length_range, List.length_replicate]
      rw [decLoop, if_pos (hlen ▸ hshort)]
    · obtain ⟨d, rfl⟩ := Nat.exists_eq_add_of_le hwidth
      obtain ⟨m', rfl⟩ := Nat.exists_eq_add_of_le (by omega : d ≤ m)
      have hzeros : (List.range n).map (2 ^ mcs + 1).testBit ++ List.replicate (d + m') false =
          (List.range (n + d)).map (2 ^ mcs + 1).testBit ++ List.replicate m' false := by
        have hhigh := map_testBit_append heoi 0 d
        rw [Nat.zero_mul, Nat.add_zero] at hhigh
        rw [hhigh, map_zero_testBit, ← List.replicate_append_replicate, ← List.append_assoc]
      rw [hzeros, decLoop_stops (heoi.trans_le (Nat.pow_le_pow_right (by decide) hwidth))]

/-! ### The bytes a code stands for -/

/-- The byte sequences of a dictionary's entries, as a decoder's table. -/
def dictStrings (mcs : Nat) : Dict → DecTable
  | [] => []
  | ((w, k), c) :: D => (c, decStr (2 ^ mcs) (dictStrings mcs D) w ++ [k]) :: dictStrings mcs D

/-- The bytes a code stands for (spec/93_implementation_defined.md G3). -/
abbrev dictStr (mcs : Nat) (D : Dict) (c : Nat) : List Nat := decStr (2 ^ mcs) (dictStrings mcs D) c

theorem dictStr_newest (w k c : Nat) : dictStr mcs (((w, k), c) :: D) c = dictStr mcs D w ++ [k] := if_pos rfl

theorem dictStr_older {d : Nat} (h : d ≠ c) : dictStr mcs (((w, k), c) :: D) d = dictStr mcs D d := if_neg h

theorem Built.dictStr_literal (h : Built mcs D n) (hk : k < 2 ^ mcs) : dictStr mcs D k = [k] := by
  induction h with
  | seeded => exact if_pos hk
  | insert older _ _ ih =>
    have := older.first_le
    rw [dictStr_older (by omega), ih]

/-- An entry stands for the bytes of the code it extends and its own. -/
theorem Built.dictStr_get (h : Built mcs D n) (hget : dictGet D w k = some c) :
    dictStr mcs D c = dictStr mcs D w ++ [k] := by
  induction h with
  | seeded => cases hget
  | @insert D n w' older pre k' ih =>
    rw [dictGet] at hget
    split at hget
    · rename_i heq
      obtain ⟨rfl, rfl⟩ := heq
      obtain rfl := Option.some.inj hget
      rw [dictStr_newest, dictStr_older (Nat.ne_of_lt pre.1)]
    · obtain ⟨-, hlt, hpre⟩ := older.get_bounds hget
      rw [dictStr_older (Nat.ne_of_lt hlt), dictStr_older (by omega), ih hget]

theorem Built.dictStr_ne_nil (h : Built mcs D n) (hc : IsData mcs n c) : dictStr mcs D c ≠ [] := by
  induction h with
  | seeded =>
    have hlit : c < 2 ^ mcs := by omega
    simp [dictStr, dictStrings, decStr, hlit]
  | @insert D n w' older pre k' ih =>
    by_cases hn : c = n
    · rw [hn, dictStr_newest]
      exact List.append_ne_nil_of_right_ne_nil _ (List.cons_ne_nil _ _)
    · rw [dictStr_older hn]
      exact ih ⟨by omega, hc.2⟩

/-- The first byte stays as a sequence grows. -/
theorem take_one_append {α : Type} {l : List α} (h : l ≠ []) (m : List α) : (l ++ m).take 1 = l.take 1 :=
  List.take_append_of_le_length (List.length_pos_of_ne_nil h)

/-! ### A code read with one entry still to be learned -/

/-- The decoder's width grows as the encoder's, whose table is one entry ahead (spec/43_lzw.md R191). -/
theorem grownWidth_eq (h : next ≤ 2 ^ cw) : (if next = 2 ^ cw ∧ cw < 12 then cw + 1 else cw) = grownWidth next cw :=
  if_congr (by omega) rfl rfl

/-- The decoder gives the code's bytes, the entry being learned among the codes it knows, and learns that entry: its last
byte is the first of the code's. -/
theorem decLoop_learn {p k₀ : Nat} (hb : Built mcs (((p, k₀), n) :: D) (n + 1)) (hc : IsData mcs (n + 1) c)
    (hfirst : (dictStr mcs (((p, k₀), n) :: D) c).take 1 = [k₀]) (hfits : c < 2 ^ cw) (hnext : n + 1 ≤ 2 ^ cw)
    (hn : n < 4096) :
    decLoop mcs (fuel + 1) ((List.range cw).map c.testBit ++ B) (dictStrings mcs D) n cw (some p) =
      dictStr mcs (((p, k₀), n) :: D) c ++
        decLoop mcs fuel B (dictStrings mcs (((p, k₀), n) :: D)) (n + 1) (grownWidth (n + 1) cw) (some c) := by
  obtain ⟨older, pre⟩ : Built mcs D n ∧ IsData mcs n p := by
    cases hb with
    | insert older pre => exact ⟨older, pre⟩
  have hbytes : (if c < n then dictStr mcs D c else dictStr mcs D p ++ (dictStr mcs D p).take 1) =
      dictStr mcs (((p, k₀), n) :: D) c := by
    split
    · rename_i hlt
      rw [dictStr_older (Nat.ne_of_lt hlt)]
    · obtain rfl : c = n := by omega
      rw [dictStr_newest, take_one_append (older.dictStr_ne_nil pre)] at hfirst
      rw [dictStr_newest, hfirst]
  rw [decLoop_read_some hfits, if_neg hc.2.1, if_neg hc.2.2]
  dsimp only
  rw [hbytes, hfirst, if_neg (by omega), if_pos hn, grownWidth_eq hnext]
  rfl

/-! ### The whole stream -/

theorem codeBits_singleton (c : CodeOut) : codeBits [c] = (List.range c.bits).map c.code.testBit := List.append_nil _

/-- The decoder gives back what the rest of a run encodes, from a fresh table on. The bits may be padded. -/
def DecodesFresh (mcs : Nat) (ks : List Nat) : Prop :=
  ∀ w f m : Nat, CoderOk mcs (2 ^ mcs + 2) (mcs + 1) [] w →
    decLoop mcs ((lzwLoop mcs ks (2 ^ mcs + 2) (mcs + 1) [] w).length + f)
      (codeBits (lzwLoop mcs ks (2 ^ mcs + 2) (mcs + 1) [] w) ++ List.replicate m false) [] (2 ^ mcs + 2) (mcs + 1)
      none = w :: ks

/-- The decoder gives back what the rest of a run encodes, the encoder's newest entry still to be learned. -/
def DecodesLearning (mcs : Nat) (ks : List Nat) : Prop :=
  ∀ (n cw w p k₀ f m : Nat) (D : Dict), CoderOk mcs (n + 1) cw (((p, k₀), n) :: D) w →
    (dictStr mcs (((p, k₀), n) :: D) w).take 1 = [k₀] →
    decLoop mcs ((lzwLoop mcs ks (n + 1) cw (((p, k₀), n) :: D) w).length + f)
      (codeBits (lzwLoop mcs ks (n + 1) cw (((p, k₀), n) :: D) w) ++ List.replicate m false) (dictStrings mcs D) n cw
      (some p) = dictStr mcs (((p, k₀), n) :: D) w ++ ks

theorem CoderOk.dictStr_fresh (h : CoderOk mcs (2 ^ mcs + 2) cw [] w) : decStr (2 ^ mcs) [] w = [w] :=
  Built.dictStr_literal .seeded (by have := h.pending; omega)

theorem decodesFresh_nil : DecodesFresh mcs [] := by
  intro w f m h
  rw [lzwLoop_nil, List.length_cons, Nat.add_right_comm, codeBits_cons, List.append_assoc,
    decLoop_first h.pending.2 h.pending_fits, h.dictStr_fresh, codeBits_singleton]
  exact congrArg (w :: ·) (decLoop_eoi h.eoi_fits (Nat.le_refl _) m _)

/-- The decoder's width may have grown once more than the encoder's when it reads End-of-Information. -/
theorem decodesLearning_nil : DecodesLearning mcs [] := by
  intro n cw w p k₀ f m D h hfirst
  rw [lzwLoop_nil, List.length_cons, Nat.add_right_comm, codeBits_cons, List.append_assoc,
    decLoop_learn h.built h.pending hfirst h.pending_fits h.fits h.next_le, codeBits_singleton,
    decLoop_eoi h.eoi_fits (grownWidth_bounds ⟨Nat.le_refl _, h.width.2⟩ _).1]

/-- The first entry of a fresh table; the width does not grow. -/
theorem DecodesLearning.fresh_cons (ih : DecodesLearning mcs ks) (hk : k < 2 ^ mcs) : DecodesFresh mcs (k :: ks) := by
  intro w f m h
  obtain ⟨-, h256, hpow⟩ := two_pow_mincs h.mcs_range.1 h.mcs_range.2
  have hroom : 2 ^ mcs + 2 < 4096 := by omega
  have hwidth : grownWidth (2 ^ mcs + 2) (mcs + 1) = mcs + 1 :=
    if_neg (by have := two_pow_mincs h.mcs_range.1 h.mcs_range.2; omega)
  have hi := h.insert hroom hk
  have hstr := hi.built.dictStr_literal hk
  rw [hwidth] at hi
  rw [lzwLoop_insert rfl hroom, hwidth, List.length_cons, Nat.add_right_comm, codeBits_cons, List.append_assoc,
    decLoop_first h.pending.2 h.pending_fits, h.dictStr_fresh]
  have hrest := ih _ _ _ _ _ f m _ hi (by rw [hstr]; rfl)
  rw [hstr] at hrest
  exact congrArg (w :: ·) hrest

/-- A full table has codes of 12 bits, and the width stays. -/
theorem CoderOk.grownWidth_full (h : CoderOk mcs next cw D w) (hfull : 4096 ≤ next) : grownWidth next cw = cw := by
  refine if_neg fun hgrow => ?_
  have hpow : 2 ^ cw < 2 ^ 12 := Nat.pow_lt_pow_right (by decide) hgrow.2
  have hfits := h.fits
  omega

theorem DecodesLearning.cons (ih : DecodesLearning mcs ks) (fresh : DecodesFresh mcs ks) (hk : k < 2 ^ mcs) :
    DecodesLearning mcs (k :: ks) := by
  intro n cw w p k₀ f m D h hfirst
  have hlearn := fun {fuel : Nat} {B : List Bool} =>
    decLoop_learn (fuel := fuel) (B := B) h.built h.pending hfirst h.pending_fits h.fits h.next_le
  rcases lzwLoop_cases (((p, k₀), n) :: D) w k (n + 1) with ⟨c, hget⟩ | ⟨hget, hroom⟩ | ⟨hget, hfull⟩
  · have hstr := h.built.dictStr_get hget
    have hne := h.built.dictStr_ne_nil h.pending
    rw [lzwLoop_extend hget, ih _ _ _ _ _ f m _ (h.extend hget) (by rw [hstr, take_one_append hne, hfirst]), hstr,
      List.append_assoc]
    rfl
  · have hi := h.insert hroom hk
    have hstr := hi.built.dictStr_literal hk
    have hrest := ih _ _ _ _ _ f m _ hi (by rw [hstr]; rfl)
    rw [hstr] at hrest
    rw [lzwLoop_insert hget hroom, List.length_cons, Nat.add_right_comm, codeBits_cons, List.append_assoc, hlearn]
    exact congrArg (_ ++ ·) hrest
  · rw [lzwLoop_reset hget hfull, List.length_cons, List.length_cons, Nat.add_right_comm, Nat.add_right_comm _ 1 f,
      codeBits_cons, List.append_assoc, hlearn, h.grownWidth_full hfull, codeBits_cons, List.append_assoc,
      decLoop_clear h.clear_fits, fresh k f m (.seeded h.mcs_range hk)]

theorem decodes_lzwLoop (hks : ∀ k ∈ ks, k < 2 ^ mcs) : DecodesFresh mcs ks ∧ DecodesLearning mcs ks := by
  induction ks with
  | nil => exact ⟨decodesFresh_nil, decodesLearning_nil⟩
  | cons k ks ih =>
    obtain ⟨hk, hks⟩ := List.forall_mem_cons.1 hks
    obtain ⟨fresh, learning⟩ := ih hks
    exact ⟨learning.fresh_cons hk, learning.cons fresh hk⟩

/-- Each code has a bit at least. -/
theorem length_le_bitCount {codes : List CodeOut} (h : ∀ c ∈ codes, 1 ≤ c.bits) : codes.length ≤ bitCount codes := by
  induction codes with
  | nil => exact Nat.le_refl _
  | cons c codes ih =>
    obtain ⟨hc, hcodes⟩ := List.forall_mem_cons.1 h
    have := ih hcodes
    rw [List.length_cons, bitCount_cons]
    omega

/-- Settles O51: the stream's bits are those of the codes, and zeros; the Clear code starts the fresh table. -/
theorem lzwRoundTrip : Obligations.LzwRoundTrip := by
  unfold Obligations.LzwRoundTrip
  intro mcs idx h2 h8 hidx
  cases idx with
  | nil =>
    have hempty : lzwStream mcs [] = [] := packBits_nil
    rw [hempty]
    rfl
  | cons k ks =>
    obtain ⟨hk, hks⟩ := List.forall_mem_cons.1 hidx
    have hok := CoderOk.seeded ⟨h2, h8⟩ hk
    have hgrammar := grammar_lzwLoop hok hks
    obtain ⟨m, hm⟩ := streamBits_packBits (codeBits (lzwCodes mcs (k :: ks)))
    have hlong : (lzwLoop mcs ks (2 ^ mcs + 2) (mcs + 1) [] k).length + 1 ≤ 8 * (lzwStream mcs (k :: ks)).length := by
      have hcodes := length_le_bitCount (codes := lzwLoop mcs ks (2 ^ mcs + 2) (mcs + 1) [] k) fun c hc =>
        (Nat.le_add_left 1 mcs).trans (hgrammar.fits c hc).1
      have hbits := lzwStream_length mcs (k :: ks)
      rw [lzwCodes, bitCount_cons] at hbits
      dsimp only at hbits
      omega
    obtain ⟨f, hf⟩ := Nat.exists_eq_add_of_le hlong
    rw [gifDecode, hf, lzwStream, hm, lzwCodes, codeBits_cons, List.append_assoc, Nat.add_right_comm,
      decLoop_clear hok.clear_fits]
    exact (decodes_lzwLoop hks).1 k f m hok

end Sys2Proof.Machine
end

/-! ## What the units leave alone (spec/20_memory.md R66 to R69)

In any state, whatever a step of a unit does, it keeps what is not its unit's. -/

section
namespace Sys2Proof.Machine

variable {s t : State}

/-! ### What is not the unit's -/

/-- What no unit writes: PIX, the host's registers and the model's own fields. -/
structure State.Keeps (s t : State) : Prop where
  pix : t.pix = s.pix
  ie : t.ie = s.ie
  width : t.width = s.width
  height : t.height = s.height
  pixlen : t.pixlen = s.pixlen
  mincs : t.mincs = s.mincs
  params : t.params = s.params
  host : t.host = s.host
  replies : t.replies = s.replies

/-- What QNT does not write (spec/20_memory.md R66, R69). -/
structure State.QntKeeps (s t : State) : Prop extends s.Keeps t where
  pfx : t.pfx = s.pfx
  sfx : t.sfx = s.sfx
  csb : t.csb = s.csb
  gif : t.gif = s.gif
  csblen : t.csblen = s.csblen
  giflen : t.giflen = s.giflen

/-- What FRM does not write, but for the tail of IDX (spec/20_memory.md R67, R69). -/
structure State.FrmKeeps (s t : State) : Prop extends s.Keeps t where
  smp : t.smp = s.smp
  pal : t.pal = s.pal
  pfx : t.pfx = s.pfx
  sfx : t.sfx = s.sfx
  csb : t.csb = s.csb
  len : t.len = s.len
  ncol : t.ncol = s.ncol
  csblen : t.csblen = s.csblen

/-- What LZW does not write (spec/20_memory.md R68). -/
structure State.LzwKeeps (s t : State) : Prop extends s.Keeps t where
  smp : t.smp = s.smp
  pal : t.pal = s.pal
  idx : t.idx = s.idx
  gif : t.gif = s.gif
  len : t.len = s.len
  ncol : t.ncol = s.ncol
  giflen : t.giflen = s.giflen

theorem State.Keeps.refl (s : State) : s.Keeps s := ⟨rfl, rfl, rfl, rfl, rfl, rfl, rfl, rfl, rfl⟩

theorem State.QntKeeps.refl (s : State) : s.QntKeeps s := ⟨.refl s, rfl, rfl, rfl, rfl, rfl, rfl⟩

theorem State.FrmKeeps.refl (s : State) : s.FrmKeeps s := ⟨.refl s, rfl, rfl, rfl, rfl, rfl, rfl, rfl, rfl⟩

theorem State.LzwKeeps.refl (s : State) : s.LzwKeeps s := ⟨.refl s, rfl, rfl, rfl, rfl, rfl, rfl, rfl⟩

/-! ### QNT -/

/-- A step of QNT while the run goes on: every cell of IDX but that of the pixel Q_MAP maps stays (spec/20_memory.md R69). -/
abbrev State.KeepsOtherPixels (s t : State) : Prop :=
  t.status.busy = true → ∀ a, s.phase ≠ phQMap ∨ a ≠ s.pos.toNat → t.idxAt a = s.idxAt a

theorem execQCheck_keeps_others (ht : execQCheck s = .next t) : s.QntKeeps t ∧ t.idx = s.idx := by
  rcases execQCheck_cases s with ⟨-, e⟩ | ⟨-, -, e⟩ | ⟨-, -, -, e⟩ | ⟨-, -, -, e⟩ <;> cases e.symm.trans ht
  all_goals exact ⟨{ State.QntKeeps.refl s with }, rfl⟩

theorem mapped_keeps_others {a : Nat} (h : s.phase ≠ phQMap ∨ a ≠ s.pos.toNat) (hp : s.phase = phQMap) :
    s.mapped.idxAt a = s.idxAt a :=
  (s.mapped_idxAt a).trans (if_neg (h.resolve_left (not_not.2 hp)))

theorem execQMap_keeps_others (hp : s.phase = phQMap) (ht : execQMap s = .next t) :
    s.QntKeeps t ∧ s.KeepsOtherPixels t := by
  obtain ⟨-, ⟨-, rfl⟩ | ⟨-, rfl⟩⟩ := execQMap_next ht
  · cases hc : s.chain
    · rw [finishQnt_alone (s := s.mapped) hc]
      exact ⟨{ State.QntKeeps.refl s with }, fun hbusy => absurd hbusy Bool.false_ne_true⟩
    · rw [finishQnt_chained (s := s.mapped) hc]
      exact ⟨{ State.QntKeeps.refl s with }, fun _ a ha => mapped_keeps_others ha hp⟩
  · exact ⟨{ State.QntKeeps.refl s with }, fun _ a ha => mapped_keeps_others ha hp⟩

theorem keepsOtherPixels_of_idx (h : t.idx = s.idx) : s.KeepsOtherPixels t :=
  fun _ a _ => by rw [State.idxAt, h]; rfl

theorem qntStep_keeps_others (h : s.inQnt) (ht : sequencerStep s = .next t) : s.QntKeeps t ∧ s.KeepsOtherPixels t := by
  rcases qntPhase_cases _ h with hp | hp | hp | hp | hp
  · exact (execQCheck_keeps_others (sequencerStep_of_phase .qCheck hp (fun _ => rfl) ht)).imp_right
      keepsOtherPixels_of_idx
  · obtain ⟨-, rfl⟩ := ifCells_next (sequencerStep_of_phase .qSample hp (fun _ => rfl) ht)
    exact ⟨{ State.QntKeeps.refl s with }, keepsOtherPixels_of_idx rfl⟩
  · obtain ⟨-, rfl⟩ := ifCells_next (sequencerStep_of_phase .qCut hp (fun _ => rfl) ht)
    exact ⟨{ State.QntKeeps.refl s with }, keepsOtherPixels_of_idx rfl⟩
  · cases sequencerStep_of_phase .qPad hp (fun _ => rfl) ht
    exact ⟨{ State.QntKeeps.refl s with }, keepsOtherPixels_of_idx rfl⟩
  · exact execQMap_keeps_others hp (sequencerStep_of_phase .qMap hp (fun _ => rfl) ht)

/-! ### FRM -/

theorem putGs_keeps (s : State) (bytes : List Byte) : s.FrmKeeps (s.putGs bytes) ∧ (s.putGs bytes).idx = s.idx := by
  rw [State.putGs_eq]
  exact ⟨{ State.FrmKeeps.refl s with }, rfl⟩

theorem frameStep_keeps_others {bytes : List Byte} {p : BitVec 5} (ht : s.frameStep bytes p = .next t) :
    s.FrmKeeps t ∧ t.idx = s.idx := by
  obtain ⟨-, rfl⟩ := frameStep_next ht
  obtain ⟨h, hidx⟩ := putGs_keeps s bytes
  exact ⟨{ h with }, hidx⟩

theorem execFCheck_keeps_others (ht : execFCheck s = .next t) : s.FrmKeeps t ∧ t.idx = s.idx := by
  rcases execFCheck_cases s with ⟨-, e⟩ | ⟨-, -, e⟩ | ⟨-, -, -, e⟩ | ⟨-, -, -, e⟩ <;> cases e.symm.trans ht
  all_goals exact ⟨{ State.FrmKeeps.refl s with }, rfl⟩

/-- A step that sets POS before it writes to GIF. -/
theorem frameStep_pos_keeps_others (pos : BitVec 32) {bytes : List Byte} {p : BitVec 5}
    (ht : { s with pos := pos }.frameStep bytes p = .next t) : s.FrmKeeps t ∧ t.idx = s.idx := by
  obtain ⟨h, hidx⟩ := frameStep_keeps_others ht
  exact ⟨{ h with }, hidx⟩

theorem execFData_keeps_others (ht : execFData s = .next t) : s.FrmKeeps t ∧ t.idx = s.idx := by
  unfold execFData at ht
  dsimp only at ht
  split at ht
  · exact frameStep_pos_keeps_others _ ht
  · cases ht

/-- What FRM does of IDX: nothing, but where F_TRAIL ends a BUILD run, and nothing below LEN there (log 9). -/
abbrev State.KeepsIndices (s t : State) : Prop :=
  (s.phase ≠ phFTrail ∨ s.chain = false → t.idx = s.idx) ∧ ∀ a, a < s.len.toNat → t.idxAt a = s.idxAt a

theorem keepsIndices_of_idx (h : t.idx = s.idx) : s.KeepsIndices t :=
  ⟨fun _ => h, fun a _ => by rw [State.idxAt, h]; rfl⟩

theorem execFTrail_keeps_others (hp : s.phase = phFTrail) (ht : execFTrail s = .next t) :
    s.FrmKeeps t ∧ s.KeepsIndices t := by
  obtain ⟨-, rfl⟩ := ifCells_next ht
  obtain ⟨h, hidx⟩ := putGs_keeps s [0x00, trailer]
  have hchain : (s.putGs [0x00, trailer]).chain = s.chain := by rw [State.putGs_eq]
  generalize s.putGs [0x00, trailer] = u at *
  refine ⟨?_, fun hc => ?_, fun a ha => ?_⟩
  · rw [u.finishFrm_frame]
    exact { h with }
  · rw [State.finishFrm_idx_alone (hchain.trans (hc.resolve_left (not_not.2 hp))), hidx]
  · rw [State.finishFrm_idxAt (h.len ▸ ha), State.idxAt, hidx]
    rfl

theorem frmStep_keeps_others (h : s.inFrm) (ht : sequencerStep s = .next t) : s.FrmKeeps t ∧ s.KeepsIndices t := by
  rcases frmPhase_cases _ h with hp | hp | hp | hp | hp | hp | hp
  case inr.inr.inr.inr.inr.inr =>
    exact execFTrail_keeps_others hp (sequencerStep_of_phase .fTrail hp (fun _ => rfl) ht)
  all_goals refine And.imp_right keepsIndices_of_idx ?_
  · exact execFCheck_keeps_others (sequencerStep_of_phase .fCheck hp (fun _ => rfl) ht)
  · exact frameStep_keeps_others (sequencerStep_of_phase .fHead hp (fun _ => rfl) ht)
  · have hgct : execFGct s = .next t := sequencerStep_of_phase .fGct hp (fun _ => rfl) ht
    exact frameStep_keeps_others hgct
  · exact frameStep_keeps_others (sequencerStep_of_phase .fGce hp (fun _ => rfl) ht)
  · exact frameStep_pos_keeps_others 0 (sequencerStep_of_phase .fImg hp (fun _ => rfl) ht)
  · exact execFData_keeps_others (sequencerStep_of_phase .fData hp (fun _ => rfl) ht)

/-! ### LZW -/

theorem putByte_keeps (h : s.LzwKeeps t) (b : Byte) : PartEnds s.LzwKeeps (putByte b t) := by
  unfold putByte
  split
  · exact (by decide : ErrName.resource ≠ .badCmd)
  · split
    · trivial
    · exact { h with }

theorem drainAcc_keeps (h : s.LzwKeeps t) (passes : Nat) : PartEnds s.LzwKeeps (drainAcc passes t) := by
  induction passes generalizing t with
  | zero => exact h
  | succ passes ih =>
    unfold drainAcc
    split
    · exact h
    · exact (putByte_keeps h _).bind fun u hu => ih { hu with }

theorem emitCode_keeps (h : s.LzwKeeps t) (c n : Nat) : PartEnds s.LzwKeeps (emitCode c n t) :=
  drainAcc_keeps (t := { t with
    acc := t.acc ||| (BitVec.ofNat 19 c <<< t.nbits.toNat)
    nbits := t.nbits + BitVec.ofNat 5 n }) { h with } 3

theorem flushAcc_keeps (h : s.LzwKeeps t) : PartEnds s.LzwKeeps (flushAcc t) := by
  unfold flushAcc
  split
  · exact (putByte_keeps h _).bind fun u hu => { hu with }
  · exact h

theorem readSymbol_keeps (i : Nat) (s : State) : PartEnds s.LzwKeeps (readSymbol i s) := by
  rcases readSymbol_cases i s with ⟨-, -, e⟩ | ⟨-, -, e⟩ | ⟨-, e⟩ <;> rw [e]
  · exact { State.LzwKeeps.refl s with }
  · exact (by decide : ErrName.symbol ≠ .badCmd)
  · trivial

theorem consumeSymbol_keeps (s : State) : PartEnds s.LzwKeeps (consumeSymbol s) :=
  (readSymbol_keeps s.pos.toNat s).bind fun _ hu => { hu with }

theorem finishLzw_keeps (h : s.LzwKeeps t) : s.LzwKeeps t.finishLzw := by
  cases hc : t.chain
  · rw [finishLzw_alone hc]
    exact { h with }
  · rw [finishLzw_chained hc]
    exact { h with }

/-- Error entry too keeps what is not LZW's, CSB and the LZW registers being unspecified (spec/60_exceptions.md R229). -/
theorem lzwOutcome_keeps {r : Except Stop State} (hr : PartEnds s.LzwKeeps r) (ht : lzwOutcome s r = .next t) :
    s.LzwKeeps t := by
  rcases lzwOutcome_next ht with rfl | ⟨e, -, rfl⟩
  · exact hr
  · exact { State.LzwKeeps.refl s with }

theorem execLCheck_keeps_others (ht : execLCheck s = .next t) : s.LzwKeeps t := by
  rcases execLCheck_cases s with ⟨-, e⟩ | ⟨-, -, e⟩ | ⟨-, -, -, e⟩ | ⟨-, -, -, e⟩ <;> cases e.symm.trans ht
  all_goals exact { State.LzwKeeps.refl s with }

theorem execLInit_keeps_others (ht : execLInit s = .next t) : s.LzwKeeps t := by
  have hseed : s.LzwKeeps s.seed := { State.LzwKeeps.refl s with }
  refine lzwOutcome_keeps ((emitCode_keeps hseed _ _).bind fun u hu => ?_) ht
  exact { hu with }

theorem execLFirst_keeps_others (ht : execLFirst s = .next t) : s.LzwKeeps t := by
  refine lzwOutcome_keeps ((readSymbol_keeps 0 s).bind fun u hu => ?_) ht
  exact { hu with }

theorem execLLoopExtend_keeps_others (ht : execLLoopExtend s = .next t) : s.LzwKeeps t := by
  refine lzwOutcome_keeps ((consumeSymbol_keeps s).bind fun u hu => ?_) (inCase_next ht).2
  exact { hu with }

theorem execLLoopInsert_keeps_others (ht : execLLoopInsert s = .next t) : s.LzwKeeps t := by
  refine lzwOutcome_keeps ((consumeSymbol_keeps s).bind fun u hu => ?_) (inCase_next ht).2
  exact (emitCode_keeps hu _ _).bind fun v hv => { hv with }

theorem execLLoopReset_keeps_others (ht : execLLoopReset s = .next t) : s.LzwKeeps t := by
  refine lzwOutcome_keeps ((consumeSymbol_keeps s).bind fun u hu => ?_) (inCase_next ht).2
  exact (emitCode_keeps hu _ _).bind fun v hv => (emitCode_keeps hv _ _).bind fun x hx => { hx with }

theorem execLFinish_keeps_others (ht : execLFinish s = .next t) : s.LzwKeeps t := by
  refine lzwOutcome_keeps ((emitCode_keeps (.refl s) _ _).bind fun u hu => ?_) ht
  exact (emitCode_keeps hu _ _).bind fun v hv => (flushAcc_keeps hv).bind fun x hx => finishLzw_keeps hx

theorem lLoopStep_keeps_others (hp : s.phase = phLLoop) (ht : sequencerStep s = .next t) : s.LzwKeeps t := by
  cases hc : s.loopCase with
  | extend => exact execLLoopExtend_keeps_others (sequencerStep_of_loopCase .lLoopExtend hp hc rfl ht)
  | insert => exact execLLoopInsert_keeps_others (sequencerStep_of_loopCase .lLoopInsert hp hc rfl ht)
  | reset => exact execLLoopReset_keeps_others (sequencerStep_of_loopCase .lLoopReset hp hc rfl ht)
  | fin =>
    cases (inCase_next (sequencerStep_of_loopCase .lLoopEnd hp hc rfl ht)).2
    exact { State.LzwKeeps.refl s with }

theorem lzwStep_keeps_others (h : s.inLzw) (ht : sequencerStep s = .next t) : s.LzwKeeps t := by
  rcases lzwPhase_cases _ h with hp | hp | hp | hp | hp
  · exact execLCheck_keeps_others (sequencerStep_of_phase .lCheck hp (fun _ => rfl) ht)
  · exact execLInit_keeps_others (sequencerStep_of_phase .lInit hp (fun _ => rfl) ht)
  · exact execLFirst_keeps_others (sequencerStep_of_phase .lFirst hp (fun _ => rfl) ht)
  · exact lLoopStep_keeps_others hp ht
  · exact execLFinish_keeps_others (sequencerStep_of_phase .lFinish hp (fun _ => rfl) ht)

/-! ### Every step -/

/-- A PHASE value that selects a step is a phase of a unit (spec/10_state.md R34). -/
theorem inUnit_of_decodeStep {c : LoopCase} {i : Instr} (h : decodeStep s.phase c = .ok i) :
    s.inQnt ∨ s.inFrm ∨ s.inLzw := by
  obtain ⟨r, hr, happlies, -⟩ := stepRow_of_decodeStep h
  have hphase : r.phase = s.phase := by
    simp only [StepRow.applies, Bool.and_eq_true, beq_iff_eq] at happlies
    exact happlies.1
  have hrows : ∀ r ∈ stepRows, (1 ≤ r.phase.toNat ∧ r.phase.toNat ≤ 5) ∨ (8 ≤ r.phase.toNat ∧ r.phase.toNat ≤ 14) ∨
      (16 ≤ r.phase.toNat ∧ r.phase.toNat ≤ 20) := by decide
  have := hrows r hr
  rwa [hphase] at this

theorem sequencerStep_keeps (ht : sequencerStep s = .next t) : s.Keeps t := by
  cases hd : decodeStep s.phase s.loopCase with
  | ok i =>
    rcases inUnit_of_decodeStep hd with h | h | h
    · exact (qntStep_keeps_others h ht).1.toKeeps
    · exact (frmStep_keeps_others h ht).1.toKeeps
    · exact (lzwStep_keeps_others h ht).toKeeps
  | error r =>
    unfold sequencerStep State.stepCode at ht
    rw [decode, hd] at ht
    cases r <;> cases ht
    exact .refl s

/-- Settles O59: unit by unit, and in every step what no unit writes. -/
theorem unitsKeepToTheirOutputs : Obligations.UnitsKeepToTheirOutputs := by
  unfold Obligations.UnitsKeepToTheirOutputs
  intro s t hhost ht
  rw [step_of_host_nil hhost] at ht
  refine ⟨?_, fun hq => ?_, fun hf => ?_, fun hl => ?_⟩
  · have h := sequencerStep_keeps ht
    exact ⟨h.pix, h.ie, h.width, h.height, h.pixlen, h.mincs, h.params, h.host, h.replies⟩
  · obtain ⟨h, hidx⟩ := qntStep_keeps_others hq ht
    exact ⟨h.pfx, h.sfx, h.csb, h.gif, h.csblen, h.giflen, hidx⟩
  · obtain ⟨h, hall, hbelow⟩ := frmStep_keeps_others hf ht
    exact ⟨hall, hbelow, h.smp, h.pal, h.pfx, h.sfx, h.csb, h.len, h.ncol, h.csblen⟩
  · have h := lzwStep_keeps_others hl ht
    exact ⟨h.smp, h.pal, h.idx, h.gif, h.len, h.ncol, h.giflen⟩

end Sys2Proof.Machine
end

/-! ## Every step answers (spec/60_exceptions.md R227), and the errors of a BUILD run (spec/40_commands.md R116)

In the invariant each step of a unit finds the cells it addresses, and raises only where the rules say. -/

section
namespace Sys2Proof.Machine

variable {s t : State}

/-! ### What a step may raise -/

/-- Under BUILD an error is one of Q_CHECK's three, or E_RESOURCE from LZW after L_CHECK or from F_CHECK. -/
def State.MayRaise (s : State) (e : ErrName) : Prop :=
  s.chain = true →
    (s.phase = phQCheck ∧ (e = .shape ∨ e = .empty ∨ e = .resource)) ∨
      (17 ≤ s.phase.toNat ∧ s.phase.toNat ≤ 20 ∧ e = .resource) ∨ (s.phase = phFCheck ∧ e = .resource)

/-- An outcome that is a next state, reached by raising no error or one the step may raise. -/
def State.Answers (s : State) (o : Out) : Prop :=
  ∃ t, o = .next t ∧ (t.status.err = s.status.err ∨ ∃ e, s.MayRaise e ∧ t.status.errCode = e.code)

theorem State.Answers.next (h : t.status.err = s.status.err) : s.Answers (.next t) := ⟨t, rfl, .inl h⟩

theorem State.Answers.raise {e : ErrName} (h : s.MayRaise e) (hcode : t.status.errCode = e.code) :
    s.Answers (.next t) := ⟨t, rfl, .inr ⟨e, h, hcode⟩⟩

theorem State.MayRaise.of_alone (h : s.chain ≠ true) (e : ErrName) : s.MayRaise e := fun hc => absurd hc h

/-- The step PHASE selects outside L_LOOP. -/
theorem sequencerStep_eq {p : BitVec 5} (i : Instr) (hp : s.phase = p) (hd : ∀ c, decodeStep p c = .ok i) :
    sequencerStep s = exec i s := sequencerStep_of_decode (hp ▸ hd _)

/-- The step PHASE and the case select in L_LOOP (spec/43_lzw.md R189). -/
theorem sequencerStep_lLoop {c : LoopCase} (i : Instr) (hp : s.phase = phLLoop) (hc : s.loopCase = c)
    (hd : decodeStep phLLoop c = .ok i) : sequencerStep s = exec i s :=
  sequencerStep_of_decode (by rw [hp, hc]; exact hd)

/-! ### QNT -/

theorem execQCheck_answers (hp : s.phase = phQCheck) : s.Answers (execQCheck s) := by
  rcases execQCheck_cases s with ⟨-, e⟩ | ⟨-, -, e⟩ | ⟨-, -, -, e⟩ | ⟨-, -, -, e⟩ <;> rw [e]
  · exact .raise (e := .empty) (fun _ => .inl ⟨hp, .inr (.inl rfl)⟩) rfl
  · exact .raise (e := .resource) (fun _ => .inl ⟨hp, .inr (.inr rfl)⟩) rfl
  · exact .raise (e := .shape) (fun _ => .inl ⟨hp, .inl rfl⟩) rfl
  · exact .next rfl

theorem execQMap_answers (hpos : s.pos.toNat < s.params.maxPix) : s.Answers (execQMap s) := by
  by_cases hlast : s.pos + 1 = s.count
  · rw [execQMap_last hpos hlast]
    exact .next s.mapped.finishQnt_err
  · rw [execQMap_more hpos hlast]
    exact .next rfl

theorem State.QntRuns.answers (h : s.QntRuns) : s.Answers (sequencerStep s) := by
  rcases qntPhase_cases _ h.phase with hp | hp | hp | hp | hp
  · rw [sequencerStep_eq .qCheck hp (fun _ => rfl)]
    exact execQCheck_answers hp
  · obtain ⟨-, -, hmax, -⟩ := h.counted (by simp [hp]) (by simp [hp])
    rw [sequencerStep_eq .qSample hp (fun _ => rfl)]
    exact ⟨_, ifCells_of hmax _ _, .inl rfl⟩
  · obtain ⟨hnsmp, -⟩ := h.sampled hp
    have hroom : s.nsmp.toNat ≤ smpCap := hnsmp ▸ sampleCount_le _
    rw [sequencerStep_eq .qCut hp (fun _ => rfl)]
    exact ⟨_, ifCells_of hroom _ _, .inl rfl⟩
  · rw [sequencerStep_eq .qPad hp (fun _ => rfl)]
    exact .next rfl
  · obtain ⟨-, -, hmax, -⟩ := h.counted (by simp [hp]) (by simp [hp])
    rw [sequencerStep_eq .qMap hp (fun _ => rfl)]
    exact execQMap_answers ((h.position hp).trans_le hmax)

/-! ### FRM -/

/-- Under BUILD F_CHECK finds MINCS, WIDTH, HEIGHT and CSBLEN in order (spec/42_gif_framer.md R161). -/
theorem State.FrmRuns.fCheck_answers (h : s.FrmRuns) (hp : s.phase = phFCheck) : s.Answers (execFCheck s) := by
  rcases execFCheck_cases s with ⟨hmincs, e⟩ | ⟨-, hempty, e⟩ | ⟨-, -, -, e⟩ | ⟨-, -, -, e⟩ <;> rw [e]
  · exact .raise (e := .config) (.of_alone (fun hc => hmincs (h.build hc).1) _) rfl
  · refine .raise (e := .empty) (.of_alone (fun hc => ?_) _) rfl
    obtain ⟨-, hw, hh, hcsblen⟩ := h.build hc
    rcases hempty with h0 | h0 | h0
    · exact hw h0
    · exact hh h0
    · rw [h0] at hcsblen
      exact absurd hcsblen (by decide)
  · exact .raise (e := .resource) (fun _ => .inr (.inr ⟨hp, rfl⟩)) rfl
  · exact .next rfl

theorem frameStep_answers (pos : BitVec 32) {bytes : List Byte} {p : BitVec 5}
    (hroom : s.gptr.toNat + bytes.length ≤ s.params.gifCap) :
    s.Answers ({ s with pos := pos }.frameStep bytes p) :=
  ⟨_, ifCells_of hroom _ _, .inl (congrArg Status.err (State.putGs_status _ _))⟩

/-- After F_CHECK the whole file fits into GIF (spec/42_gif_framer.md R161). -/
theorem State.FrmRuns.room (h : s.FrmRuns) (h9 : 9 ≤ s.phase.toNat) :
    802 + s.csblen.toNat + (s.csblen.toNat + 254) / 255 ≤ s.params.gifCap := by
  obtain ⟨-, -, -, -, hcap⟩ := h.checked h9 h.phase.2
  rwa [gifLength, subBlkMax, ceilDiv_255] at hcap

theorem State.FrmRuns.fData_answers (h : s.FrmRuns) (hp : s.phase = phFData) : s.Answers (execFData s) := by
  obtain ⟨hlt, hmod, hgptr⟩ := h.at_data hp
  simp only [subBlkMax] at hmod hgptr
  have hroom := h.room (by simp [hp])
  obtain ⟨hpositive, hend⟩ := State.subBlockLen_bounds hlt
  have hlen : s.subBlockLen = min 255 (s.csblen.toNat - s.pos.toNat) := rfl
  unfold execFData
  dsimp only
  rw [if_pos (hend.trans h.csblen_le)]
  refine frameStep_answers _ ?_
  rw [s.subBlock_length]
  omega

theorem State.FrmRuns.fTrail_answers (h : s.FrmRuns) (hp : s.phase = phFTrail) : s.Answers (execFTrail s) := by
  have hgptr := h.at_trail hp
  rw [subBlkMax, ceilDiv_255] at hgptr
  have hroom : s.gptr.toNat + 2 ≤ s.params.gifCap := by
    have := h.room (by simp [hp])
    omega
  exact ⟨_, ifCells_of hroom _ _, .inl ((State.finishFrm_err _).trans (congrArg Status.err (s.putGs_status _)))⟩

theorem State.FrmRuns.answers (h : s.FrmRuns) : s.Answers (sequencerStep s) := by
  have hat : ∀ {a : BitVec 32} {n : Nat}, 9 ≤ s.phase.toNat → s.gptr = a → a.toNat + n ≤ 802 →
      s.gptr.toNat + n ≤ s.params.gifCap := by
    rintro a n h9 rfl hn
    have := h.room h9
    omega
  rcases frmPhase_cases _ h.phase with hp | hp | hp | hp | hp | hp | hp
  · rw [sequencerStep_eq .fCheck hp (fun _ => rfl)]
    exact h.fCheck_answers hp
  · rw [sequencerStep_eq .fHead hp (fun _ => rfl)]
    exact frameStep_answers s.pos (hat (by simp [hp]) (h.at_head hp) (by change 0 + 13 ≤ 802; decide))
  · rw [sequencerStep_eq .fGct hp (fun _ => rfl)]
    have hroom : s.gptr.toNat + s.gctBytes.length ≤ s.params.gifCap := by
      rw [s.gctBytes_length]
      exact hat (by simp [hp]) (h.at_gct hp) (by decide)
    have hgct : s.Answers (s.frameStep s.gctBytes phFGce) := frameStep_answers s.pos hroom
    exact hgct
  · rw [sequencerStep_eq .fGce hp (fun _ => rfl)]
    exact frameStep_answers s.pos (hat (by simp [hp]) (h.at_gce hp) (by decide))
  · rw [sequencerStep_eq .fImg hp (fun _ => rfl)]
    exact frameStep_answers 0 (hat (by simp [hp]) (h.at_img hp) (by change 789 + 11 ≤ 802; decide))
  · rw [sequencerStep_eq .fData hp (fun _ => rfl)]
    exact h.fData_answers hp
  · rw [sequencerStep_eq .fTrail hp (fun _ => rfl)]
    exact h.fTrail_answers hp

/-! ### LZW -/

/-- What a part of an LZW step ends in where no cell is missing: a state with the property P, or an error the step may
raise. -/
def PartAnswers (s : State) (P : State → Prop) : Except Stop State → Prop
  | .ok t => P t
  | .error (.raise e) => s.MayRaise e
  | .error (.fault _) => False

/-- The rest of an LZW step goes on from the state its first part gives. -/
theorem PartAnswers.bind {P Q : State → Prop} {r : Except Stop State} {f : State → Except Stop State}
    (hr : PartAnswers s P r) (hf : ∀ u, P u → PartAnswers s Q (f u)) :
    PartAnswers s Q
      (match (generalizing := false) r with
      | .ok u => f u
      | .error e => .error e) := by
  match r with
  | .ok u => exact hf u hr
  | .error (.raise e) => exact hr
  | .error (.fault f) => exact hr

/-- A part that leaves ERR as it is. -/
abbrev State.SameErr (s t : State) : Prop := t.status.err = s.status.err

theorem lzwOutcome_answers {r : Except Stop State} (hr : PartAnswers s s.SameErr r) : s.Answers (lzwOutcome s r) := by
  match r with
  | .ok t => exact .next hr
  | .error (.raise e) => exact .raise (e := e) hr rfl

theorem inCase_answers {c : LoopCase} {o : Out} (hc : s.loopCase = c) (ho : s.Answers o) :
    s.Answers (s.inCase c o) := by
  rw [State.inCase, if_pos hc]
  exact ho

section
variable {u : State} (hres : s.MayRaise .resource)
include hres

/-- An emission finds its cells or raises E_RESOURCE (spec/43_lzw.md R183, R184). -/
theorem emitCode_answers (h : u.StreamOk) {c n : Nat} (hfits : c < 2 ^ n ∧ n ≤ 12) :
    PartAnswers s (fun v => v.StreamOk ∧ v = u.withStream v) (emitCode c n u) := by
  rcases emitCode_spec c n u h.buffer.1 h.buffer.2 hfits.2 hfits.1 h.cap h.optr_le with ⟨-, v, hv, he⟩ | ⟨-, he⟩
  · obtain ⟨-, -, -, -, -, hstream, -⟩ := h.emit hfits hv
    rw [hv]
    exact ⟨hstream, he.frame⟩
  · rw [he]
    exact hres

theorem flushAcc_answers (h : u.StreamOk) : PartAnswers s (fun v => v = u.withStream v) (flushAcc u) := by
  rcases flushAcc_spec u h.optr_le h.cap with ⟨v, hv, hframe, -⟩ | he
  · rw [hv]
    exact hframe
  · rw [he]
    exact hres

end

section
variable (h : s.LzwRuns)
include h

theorem State.LzwRuns.mayRaise_resource (h17 : 17 ≤ s.phase.toNat) : s.MayRaise .resource :=
  fun _ => .inr (.inl ⟨h17, h.phase.2, rfl⟩)

/-- Under BUILD MINCS is 8, and every byte is a symbol (spec/60_exceptions.md R226). -/
theorem State.LzwRuns.mayRaise_symbol {b : Byte} (hb : s.clr ≤ b.toNat) : s.MayRaise .symbol := by
  refine .of_alone (fun hc => ?_) _
  obtain ⟨hmincs, -⟩ := h.build hc
  have hclr : s.clr = 256 := by rw [State.clr, hmincs]; rfl
  have hlt := b.isLt
  omega

theorem State.LzwRuns.readSymbol_answers {i : Nat} (hi : i < s.params.maxPix) :
    PartAnswers s (fun u => u = { s with k := s.idxAt i }) (readSymbol i s) := by
  rcases readSymbol_cases i s with ⟨-, -, e⟩ | ⟨-, hk, e⟩ | ⟨hbeyond, -⟩
  · rw [e]
    rfl
  · rw [e]
    exact h.mayRaise_symbol hk
  · omega

theorem State.LzwRuns.consumeSymbol_answers (hp : s.phase = phLLoop) (hpos : s.pos ≠ s.len) :
    PartAnswers s (fun u => u = s.consumed) (consumeSymbol s) := by
  obtain ⟨-, -, -, hmax⟩ := h.checked (by simp [hp]) (by simp [hp])
  obtain ⟨-, hle⟩ := h.position hp
  have hne : s.pos.toNat ≠ s.len.toNat := fun e => hpos (BitVec.eq_of_toNat_eq e)
  refine PartAnswers.bind (h.readSymbol_answers (by omega)) fun u hu => ?_
  rw [hu]
  exact rfl

/-- Under BUILD L_CHECK finds MINCS and LEN in order (spec/43_lzw.md R186). -/
theorem State.LzwRuns.lCheck_answers : s.Answers (execLCheck s) := by
  rcases execLCheck_cases s with ⟨hmincs, e⟩ | ⟨-, hempty, e⟩ | ⟨-, -, hlong, e⟩ | ⟨-, -, -, e⟩ <;> rw [e]
  · refine .raise (e := .config) (.of_alone (fun hc => ?_) _) rfl
    rw [(h.build hc).1] at hmincs
    exact absurd hmincs (by decide)
  · refine .raise (e := .empty) (.of_alone (fun hc => ?_) _) rfl
    obtain ⟨-, -, -, -, hlen, -⟩ := h.build hc
    rw [hempty] at hlen
    exact absurd hlen (by decide)
  · refine .raise (e := .resource) (.of_alone (fun hc => ?_) _) rfl
    obtain ⟨-, -, -, -, -, hle⟩ := h.build hc
    omega
  · exact .next rfl

theorem State.LzwRuns.lInit_answers (hp : s.phase = phLInit) : s.Answers (execLInit s) := by
  have h17 : 17 ≤ s.phase.toNat := by simp [hp]
  obtain ⟨h2, h8, -⟩ := h.checked h17 h.phase.2
  obtain ⟨-, hoptr, hacc, hnbits⟩ := h.at_init hp
  obtain ⟨-, hcap, -⟩ := h.caps
  have htable : s.seed.TableOk := State.seed_tableOk h2 h8
  have hstream : s.seed.StreamOk :=
    { cap := hcap
      csb_wf := h.csb_wf
      csb_within := h.csb_within
      buffer := by simp [State.BufferOk, hacc, hnbits]
      optr_le := by simp [hoptr] }
  refine lzwOutcome_answers (PartAnswers.bind
    (emitCode_answers (h.mayRaise_resource h17) hstream (htable.code_fits htable.control_lt.1)) fun u hu => ?_)
  rw [hu.2]
  exact rfl

theorem State.LzwRuns.lFirst_answers : s.Answers (execLFirst s) := by
  obtain ⟨⟨hpix, -⟩, -⟩ := h.params
  refine lzwOutcome_answers (PartAnswers.bind (h.readSymbol_answers (by omega)) fun u hu => ?_)
  rw [hu]
  exact rfl

theorem State.LzwRuns.lLoop_answers (hp : s.phase = phLLoop) : s.Answers (sequencerStep s) := by
  have hres := h.mayRaise_resource (by simp [hp])
  have hconsume := h.consumeSymbol_answers hp
  have hloop := h.consumed_loopOk hp
  cases hc : s.loopCase with
  | extend =>
    obtain ⟨hpos, -⟩ := (loopCase_extend s).1 hc
    rw [sequencerStep_lLoop .lLoopExtend hp hc rfl]
    refine inCase_answers hc (lzwOutcome_answers (PartAnswers.bind (hconsume hpos) fun u hu => ?_))
    rw [hu]
    exact rfl
  | insert =>
    obtain ⟨hpos, -⟩ := (loopCase_insert s).1 hc
    have hl := hloop hpos
    rw [sequencerStep_lLoop .lLoopInsert hp hc rfl]
    refine inCase_answers hc (lzwOutcome_answers (PartAnswers.bind (hconsume hpos) fun u hu => ?_))
    subst hu
    refine (emitCode_answers hres hl.stream (hl.table.code_fits hl.pending.1)).bind fun v hv => ?_
    rw [hv.2]
    exact rfl
  | reset =>
    obtain ⟨hpos, -⟩ := (loopCase_reset s).1 hc
    have hl := hloop hpos
    rw [sequencerStep_lLoop .lLoopReset hp hc rfl]
    refine inCase_answers hc (lzwOutcome_answers (PartAnswers.bind (hconsume hpos) fun u hu => ?_))
    subst hu
    refine (emitCode_answers hres hl.stream (hl.table.code_fits hl.pending.1)).bind fun v hv => ?_
    obtain ⟨hstream, hv⟩ := hv
    rw [hv] at hstream ⊢
    refine (emitCode_answers hres hstream (hl.table.code_fits hl.table.control_lt.1)).bind fun x hx => ?_
    rw [hx.2]
    exact rfl
  | fin =>
    rw [sequencerStep_lLoop .lLoopEnd hp hc rfl]
    exact inCase_answers hc (.next rfl)

theorem State.LzwRuns.lFinish_answers (hp : s.phase = phLFinish) : s.Answers (execLFinish s) := by
  have h18 : 18 ≤ s.phase.toNat := by simp [hp]
  have hres := h.mayRaise_resource (by omega)
  have htable : s.TableOk := h.tabled h18 h.phase.2
  have hpending := h.pending (by simp [hp]) h.phase.2
  refine lzwOutcome_answers (PartAnswers.bind
    (emitCode_answers hres (h.streamOk h18) (htable.code_fits hpending.1)) fun u hu => ?_)
  obtain ⟨hstream, hu⟩ := hu
  rw [hu] at hstream ⊢
  refine (emitCode_answers hres hstream (htable.code_fits htable.control_lt.2)).bind fun v hv => ?_
  refine (flushAcc_answers hres hv.1).bind fun x hx => (State.finishLzw_err x).trans ?_
  rw [hx, hv.2]

theorem State.LzwRuns.answers : s.Answers (sequencerStep s) := by
  rcases lzwPhase_cases _ h.phase with hp | hp | hp | hp | hp
  · rw [sequencerStep_eq .lCheck hp (fun _ => rfl)]
    exact h.lCheck_answers
  · rw [sequencerStep_eq .lInit hp (fun _ => rfl)]
    exact h.lInit_answers hp
  · rw [sequencerStep_eq .lFirst hp (fun _ => rfl)]
    exact h.lFirst_answers
  · exact h.lLoop_answers hp
  · rw [sequencerStep_eq .lFinish hp (fun _ => rfl)]
    exact h.lFinish_answers hp

end

/-! ### Every step -/

theorem State.Inv.answers (h : s.Inv) : s.Answers (Machine.sequencerStep s) := by
  rcases h.cases with hp | hq | hf | hl
  · rw [sequencerStep_idle hp]
    exact .next rfl
  · exact hq.answers
  · exact hf.answers
  · exact hl.answers

theorem State.Inv.exists_next (h : s.Inv) : ∃ t, Machine.sequencerStep s = .next t :=
  let ⟨t, ht, _⟩ := h.answers
  ⟨t, ht⟩

/-- An access of the interface always answers (spec/20_memory.md R62). -/
theorem hostAccess_next {a : HostAccess} (hl : a.legal s.params = true) : ∃ t, hostAccess a s = .next t := by
  cases a with
  | memRead sp addr n => exact ⟨_, hostAccess_read hl⟩
  | memWrite sp addr n v =>
    rw [hostAccess_write hl]
    split
    · obtain ⟨t, ht⟩ := exec_command_accepted v s
      exact ⟨_, ht⟩
    · exact ⟨_, rfl⟩

/-- Settles O55: each of the outside world's moves answers, and the sequencer's step does in the invariant. -/
theorem everyStepAnswers : Obligations.EveryStepAnswers := by
  unfold Obligations.EveryStepAnswers
  intro s h hlegal
  rcases hhost : s.host with _ | ⟨m, rest⟩
  · rw [step_of_host_nil hhost]
    exact h.exists_next
  · cases m with
    | access a =>
      rw [step_of_host_access hhost]
      exact hostAccess_next (s := { s with host := rest }) (hlegal a rest hhost)
    | rst => exact ⟨{ s with host := rest }.hardReset, by simp only [step, nextMove, hhost, takeMove]⟩
    | pass =>
      rw [step_of_pass hhost]
      exact (h.withHost rest).exists_next
    | wait =>
      cases hb : s.status.busy
      · exact ⟨_, step_of_wait_idle hhost hb⟩
      · rw [step_of_wait_busy hhost hb]
        exact h.exists_next

/-- Settles O58: while BUSY = 1 ERR is 0, so the step raised an error that it may raise under BUILD. -/
theorem buildErrors : Obligations.BuildErrors := by
  unfold Obligations.BuildErrors
  intro s t h hc hhost ht herr
  rw [step_of_host_nil hhost] at ht
  obtain ⟨-, hquiet⟩ := h.flags.quiet (h.flags.chain_busy hc)
  obtain ⟨t', ht', hcases⟩ := h.answers
  obtain rfl : t' = t := Host.Outcome.next.inj (ht'.symm.trans ht)
  obtain ⟨e, hmay, hcode⟩ := hcases.resolve_left (by simp [herr, hquiet])
  rw [hcode]
  rcases hmay hc with ⟨hp, rfl | rfl | rfl⟩ | ⟨hlo, hhi, rfl⟩ | ⟨hp, rfl⟩
  · exact .inl ⟨hp, .inl rfl⟩
  · exact .inl ⟨hp, .inr (.inl rfl)⟩
  · exact .inl ⟨hp, .inr (.inr rfl)⟩
  · exact .inr (.inl ⟨hlo, hhi, rfl⟩)
  · exact .inr (.inr ⟨hp, rfl⟩)

end Sys2Proof.Machine
end

/-! ## Every run ends (spec/40_commands.md R120, spec/70_reset_and_hazards.md R262)

The steps a run may still take, unit after unit, fall by one at least with every step. -/

section
namespace Sys2Proof.Machine

variable {s t : State}

/-! ### Runs -/

theorem run_succ (h : step s = .next t) (k : Nat) : run (k + 1) s = run k t := by
  rw [run, h]

theorem run_add {j : Nat} (h : run j s = .next t) (k : Nat) : run (j + k) s = run k t := by
  induction j generalizing s with
  | zero =>
    obtain rfl : s = t := Host.Outcome.next.inj h
    rw [Nat.zero_add]
  | succ j ih =>
    cases hstep : step s with
    | next u =>
      rw [run_succ hstep] at h
      rw [Nat.add_right_comm, run_succ hstep, ih h]
    | fault f => rw [run, hstep] at h; cases h
    | refused r => rw [run, hstep] at h; cases h

/-! ### The steps left -/

/-- The most steps FRM takes: one a sub-block, and six (spec/70_reset_and_hazards.md R262). -/
def frmSteps (p : Params) : Nat := ceilDiv p.csbCap 255 + 6

/-- The most steps a run may still take from a state (spec/70_reset_and_hazards.md R262): those left of its unit, and those
of the units that may follow under BUILD. -/
def State.stepsLeft (s : State) : Nat :=
  match s.phase.toNat with
  | 0 => 0
  | 1 => 2 * s.params.maxPix + 8 + frmSteps s.params
  | 2 => 2 * s.params.maxPix + 7 + frmSteps s.params
  | 3 => 2 * s.params.maxPix + 6 + frmSteps s.params
  | 4 => 2 * s.params.maxPix + 5 + frmSteps s.params
  | 5 => (s.count.toNat - s.pos.toNat) + s.params.maxPix + 4 + frmSteps s.params
  | 16 => s.params.maxPix + 4 + frmSteps s.params
  | 17 => s.params.maxPix + 3 + frmSteps s.params
  | 18 => s.params.maxPix + 2 + frmSteps s.params
  | 19 => (s.len.toNat - s.pos.toNat) + 2 + frmSteps s.params
  | 20 => 1 + frmSteps s.params
  | 8 => ceilDiv s.params.csbCap 255 + 6
  | 9 => ceilDiv s.params.csbCap 255 + 5
  | 10 => ceilDiv s.params.csbCap 255 + 4
  | 11 => ceilDiv s.params.csbCap 255 + 3
  | 12 => ceilDiv s.params.csbCap 255 + 2
  | 13 => ceilDiv (s.csblen.toNat - s.pos.toNat) 255 + 1
  | _ => 1

theorem stepsLeft_idle (h : s.phase = phIdle) : s.stepsLeft = 0 := by
  simp [State.stepsLeft, h]

theorem stepsLeft_pos (h : s.phase ≠ phIdle) : 0 < s.stepsLeft := by
  have h0 : s.phase.toNat ≠ 0 := fun e => h (BitVec.eq_of_toNat_eq e)
  unfold State.stepsLeft frmSteps
  split
  · exact absurd ‹_› h0
  all_goals omega

/-! ### QNT -/

theorem execQMap_stepsLeft (h : s.QntRuns) (hp : s.phase = phQMap) (ht : execQMap s = .next t) :
    t.stepsLeft < s.stepsLeft := by
  have hlt := h.position hp
  obtain ⟨hcap, -⟩ := h.caps
  obtain ⟨hpos, ⟨-, rfl⟩ | ⟨-, rfl⟩⟩ := execQMap_next ht
  · cases hc : s.chain
    · rw [finishQnt_alone (s := s.mapped) hc, stepsLeft_idle rfl]
      exact stepsLeft_pos (by simp [hp])
    · rw [finishQnt_chained (s := s.mapped) hc]
      simp [State.stepsLeft, hp]
      omega
  · have hnext : (s.pos + 1).toNat = s.pos.toNat + 1 := toNat_succ _ (by omega)
    simp only [State.stepsLeft, hp, phQMap, BitVec.reduceToNat, hnext]
    omega

theorem State.QntRuns.stepsLeft_lt (h : s.QntRuns) (ht : sequencerStep s = .next t) : t.stepsLeft < s.stepsLeft := by
  rcases qntPhase_cases _ h.phase with hp | hp | hp | hp | hp
  · have hpos : 0 < s.stepsLeft := stepsLeft_pos (by simp [hp])
    rcases execQCheck_cases s with ⟨-, e⟩ | ⟨-, -, e⟩ | ⟨-, -, -, e⟩ | ⟨-, -, -, e⟩ <;>
      cases e.symm.trans (sequencerStep_of_phase .qCheck hp (fun _ => rfl) ht)
    · exact hpos
    · exact hpos
    · exact hpos
    · simp [State.stepsLeft, hp]
  · obtain ⟨-, rfl⟩ := ifCells_next (sequencerStep_of_phase .qSample hp (fun _ => rfl) ht)
    simp [State.stepsLeft, hp]
  · obtain ⟨-, rfl⟩ := ifCells_next (sequencerStep_of_phase .qCut hp (fun _ => rfl) ht)
    simp [State.stepsLeft, hp]
  · obtain ⟨-, -, hmax, -⟩ := h.counted (by simp [hp]) (by simp [hp])
    cases sequencerStep_of_phase .qPad hp (fun _ => rfl) ht
    simp [State.stepsLeft, hp]
    omega
  · exact execQMap_stepsLeft h hp (sequencerStep_of_phase .qMap hp (fun _ => rfl) ht)

/-! ### FRM -/

theorem execFData_stepsLeft (h : s.FrmRuns) (hp : s.phase = phFData) (ht : execFData s = .next t) :
    t.stepsLeft < s.stepsLeft := by
  obtain ⟨hlt, -⟩ := h.at_data hp
  have hnext := State.pos_after_subBlock hlt
  have hlen : s.subBlockLen = min 255 (s.csblen.toNat - s.pos.toNat) := rfl
  obtain ⟨-, -, rfl⟩ := execFData_next ht
  rw [State.putGs_eq]
  by_cases hlast : s.pos + BitVec.ofNat 32 s.subBlockLen = s.csblen
  · simp only [State.stepsLeft, hp, hlast, if_true, phFData, phFTrail, BitVec.reduceToNat, ceilDiv_255]
    omega
  · have hne : (s.pos + BitVec.ofNat 32 s.subBlockLen).toNat ≠ s.csblen.toNat :=
      fun e => hlast (BitVec.eq_of_toNat_eq e)
    simp only [State.stepsLeft, hp, hlast, if_false, phFData, BitVec.reduceToNat, hnext, ceilDiv_255]
    omega

theorem State.FrmRuns.stepsLeft_lt (h : s.FrmRuns) (ht : sequencerStep s = .next t) : t.stepsLeft < s.stepsLeft := by
  rcases frmPhase_cases _ h.phase with hp | hp | hp | hp | hp | hp | hp
  · have hpos : 0 < s.stepsLeft := stepsLeft_pos (by simp [hp])
    rcases execFCheck_cases s with ⟨-, e⟩ | ⟨-, -, e⟩ | ⟨-, -, -, e⟩ | ⟨-, -, -, e⟩ <;>
      cases e.symm.trans (sequencerStep_of_phase .fCheck hp (fun _ => rfl) ht)
    · exact hpos
    · exact hpos
    · exact hpos
    · simp [State.stepsLeft, hp]
  · obtain ⟨gif, gptr, rfl, -⟩ := h.frameStep_cases (sequencerStep_of_phase .fHead hp (fun _ => rfl) ht)
    simp [State.stepsLeft, hp]
  · have hgct : execFGct s = .next t := sequencerStep_of_phase .fGct hp (fun _ => rfl) ht
    rw [execFGct] at hgct
    obtain ⟨gif, gptr, rfl, -⟩ := h.frameStep_cases hgct
    simp [State.stepsLeft, hp]
  · obtain ⟨gif, gptr, rfl, -⟩ := h.frameStep_cases (sequencerStep_of_phase .fGce hp (fun _ => rfl) ht)
    simp [State.stepsLeft, hp]
  · have hle := h.csblen_le
    obtain ⟨gif, gptr, rfl, -⟩ := State.Bounded.frameStep_cases (s := { s with pos := 0 }) { h with }
      (sequencerStep_of_phase .fImg hp (fun _ => rfl) ht)
    simp [State.stepsLeft, hp, ceilDiv_255]
    omega
  · exact execFData_stepsLeft h hp (sequencerStep_of_phase .fData hp (fun _ => rfl) ht)
  · obtain ⟨-, rfl⟩ := ifCells_next (sequencerStep_of_phase .fTrail hp (fun _ => rfl) ht)
    rw [State.finishFrm_frame, stepsLeft_idle rfl]
    exact stepsLeft_pos (by simp [hp])

/-! ### LZW -/

/-- PutByte writes CSB and OPTR only (spec/43_lzw.md R184). -/
theorem putByte_frame {b : Byte} (h : putByte b s = .ok t) : t = s.withStream t := by
  unfold putByte at h
  split at h
  · cases h
  · split at h
    · cases h
    · cases h
      rfl

theorem drainAcc_frame {passes : Nat} (h : drainAcc passes s = .ok t) : t = s.withStream t := by
  induction passes generalizing s with
  | zero =>
    cases h
    rfl
  | succ passes ih =>
    unfold drainAcc at h
    split at h
    · cases h
      rfl
    · obtain ⟨u, hu, h⟩ := ok_of_match h
      rw [ih h, putByte_frame hu]

/-- EmitCode writes CSB and the stream's registers only, wherever it succeeds (spec/43_lzw.md R183). -/
theorem emitCode_frame {c n : Nat} (h : emitCode c n s = .ok t) : t = s.withStream t := by
  unfold emitCode at h
  rw [drainAcc_frame h]

theorem flushAcc_frame (h : flushAcc s = .ok t) : t = s.withStream t := by
  unfold flushAcc at h
  split at h
  · obtain ⟨u, hu, h⟩ := ok_of_match h
    cases h
    rw [putByte_frame hu]
  · cases h
    rfl

theorem execLInit_stepsLeft (hp : s.phase = phLInit) (ht : execLInit s = .next t) : t.stepsLeft < s.stepsLeft := by
  rcases lzwOutcome_next ht with hok | ⟨e, -, rfl⟩
  · obtain ⟨u, hu, hok⟩ := ok_of_match hok
    cases hok
    rw [emitCode_frame hu]
    simp [State.stepsLeft, hp, State.seed]
  · exact stepsLeft_pos (by simp [hp])

/-- A step of L_LOOP that consumes a byte moves POS on, or raises (spec/43_lzw.md R189). -/
theorem lLoop_consumes (hp : s.phase = phLLoop) (hpos : s.pos ≠ s.len) (ht : sequencerStep s = .next t) :
    t.phase = phIdle ∨ t.phase = phLLoop ∧ t.pos = s.pos + 1 := by
  cases hc : s.loopCase with
  | extend =>
    rcases lzwOutcome_next (inCase_next (sequencerStep_of_loopCase .lLoopExtend hp hc rfl ht)).2 with hok | ⟨e, -, rfl⟩
    · obtain ⟨u, hu, hok⟩ := ok_of_match hok
      cases hok
      obtain ⟨rfl, -⟩ := consumeSymbol_next hu
      exact .inr ⟨hp, rfl⟩
    · exact .inl rfl
  | insert =>
    rcases lzwOutcome_next (inCase_next (sequencerStep_of_loopCase .lLoopInsert hp hc rfl ht)).2 with hok | ⟨e, -, rfl⟩
    · obtain ⟨u, hu, hok⟩ := ok_of_match hok
      obtain ⟨v, hv, hok⟩ := ok_of_match hok
      cases hok
      obtain ⟨rfl, -⟩ := consumeSymbol_next hu
      rw [emitCode_frame hv]
      exact .inr ⟨hp, rfl⟩
    · exact .inl rfl
  | reset =>
    rcases lzwOutcome_next (inCase_next (sequencerStep_of_loopCase .lLoopReset hp hc rfl ht)).2 with hok | ⟨e, -, rfl⟩
    · obtain ⟨u, hu, hok⟩ := ok_of_match hok
      obtain ⟨v, hv, hok⟩ := ok_of_match hok
      obtain ⟨x, hx, hok⟩ := ok_of_match hok
      cases hok
      obtain ⟨rfl, -⟩ := consumeSymbol_next hu
      rw [emitCode_frame hx, emitCode_frame hv]
      exact .inr ⟨hp, rfl⟩
    · exact .inl rfl
  | fin => exact absurd ((loopCase_fin s).1 hc) hpos

theorem execLFinish_stepsLeft (hp : s.phase = phLFinish) (ht : execLFinish s = .next t) :
    t.stepsLeft < s.stepsLeft := by
  have hpos : 0 < s.stepsLeft := stepsLeft_pos (by simp [hp])
  rcases lzwOutcome_next ht with hok | ⟨e, -, rfl⟩
  · obtain ⟨u, hu, hok⟩ := ok_of_match hok
    obtain ⟨v, hv, hok⟩ := ok_of_match hok
    obtain ⟨x, hx, hok⟩ := ok_of_match hok
    cases hok
    have hx' : x.params = v.params := by rw [flushAcc_frame hx]
    have hv' : v.params = u.params := by rw [emitCode_frame hv]
    have hu' : u.params = s.params := by rw [emitCode_frame hu]
    cases hc : x.chain
    · rw [finishLzw_alone hc]
      exact hpos
    · rw [finishLzw_chained hc]
      simp [State.stepsLeft, hp, hx', hv', hu', frmSteps]
  · exact hpos

section
variable (h : s.LzwRuns)
include h

theorem execLFirst_stepsLeft (hp : s.phase = phLFirst) (ht : execLFirst s = .next t) : t.stepsLeft < s.stepsLeft := by
  obtain ⟨-, -, hlen, hmax⟩ := h.checked (by simp [hp]) (by simp [hp])
  rcases lzwOutcome_next ht with hok | ⟨e, -, rfl⟩
  · obtain ⟨u, hu, hok⟩ := ok_of_match hok
    cases hok
    obtain ⟨rfl, -⟩ := readSymbol_next hu
    simp [State.stepsLeft, hp]
    omega
  · exact stepsLeft_pos (by simp [hp])

theorem lLoop_stepsLeft (hp : s.phase = phLLoop) (ht : sequencerStep s = .next t) : t.stepsLeft < s.stepsLeft := by
  have hkeeps := lzwStep_keeps_others h.phase ht
  obtain ⟨-, -, -, hmax⟩ := h.checked (by simp [hp]) (by simp [hp])
  obtain ⟨-, hle⟩ := h.position hp
  obtain ⟨hcap, -⟩ := h.caps
  by_cases hpos : s.pos = s.len
  · cases (inCase_next (sequencerStep_of_loopCase .lLoopEnd hp ((loopCase_fin s).2 hpos) rfl ht)).2
    simp [State.stepsLeft, hp]
  · have hne : s.pos.toNat ≠ s.len.toNat := fun e => hpos (BitVec.eq_of_toNat_eq e)
    have hnext : (s.pos + 1).toNat = s.pos.toNat + 1 := toNat_succ _ (by omega)
    rcases lLoop_consumes hp hpos ht with hidle | ⟨hp', hpos'⟩
    · rw [stepsLeft_idle hidle]
      exact stepsLeft_pos (by simp [hp])
    · simp only [State.stepsLeft, hp, hp', phLLoop, BitVec.reduceToNat, hpos', hnext, hkeeps.len, hkeeps.params]
      omega

theorem State.LzwRuns.stepsLeft_lt (ht : sequencerStep s = .next t) : t.stepsLeft < s.stepsLeft := by
  rcases lzwPhase_cases _ h.phase with hp | hp | hp | hp | hp
  · have hpos : 0 < s.stepsLeft := stepsLeft_pos (by simp [hp])
    rcases execLCheck_cases s with ⟨-, e⟩ | ⟨-, -, e⟩ | ⟨-, -, -, e⟩ | ⟨-, -, -, e⟩ <;>
      cases e.symm.trans (sequencerStep_of_phase .lCheck hp (fun _ => rfl) ht)
    · exact hpos
    · exact hpos
    · exact hpos
    · simp [State.stepsLeft, hp]
  · exact execLInit_stepsLeft hp (sequencerStep_of_phase .lInit hp (fun _ => rfl) ht)
  · exact execLFirst_stepsLeft h hp (sequencerStep_of_phase .lFirst hp (fun _ => rfl) ht)
  · exact lLoop_stepsLeft h hp ht
  · exact execLFinish_stepsLeft hp (sequencerStep_of_phase .lFinish hp (fun _ => rfl) ht)

end

/-! ### Every run -/

theorem State.Inv.stepsLeft_lt (h : s.Inv) (hp : s.phase ≠ phIdle) (ht : Machine.sequencerStep s = .next t) :
    t.stepsLeft < s.stepsLeft := by
  rcases h.cases with hidle | hq | hf | hl
  · exact absurd hidle hp
  · exact hq.stepsLeft_lt ht
  · exact hf.stepsLeft_lt ht
  · exact hl.stepsLeft_lt ht

theorem State.Inv.stepsLeft_le (h : s.Inv) :
    s.stepsLeft ≤ 14 + 2 * s.params.maxPix + (s.params.csbCap + 254) / 255 := by
  have hcount := h.qnt.counted
  have hlen := h.lzw.checked
  have hcsblen := h.lengths.csblen_le
  unfold State.stepsLeft frmSteps
  simp only [ceilDiv_255]
  split <;> omega

/-- From a state of the invariant the machine is idle after the steps left at the latest. -/
theorem State.Inv.terminates (h : s.Inv) (hhost : s.host = []) :
    ∃ k t, k ≤ s.stepsLeft ∧ run k s = .next t ∧ t.status.busy = false := by
  induction hn : s.stepsLeft using Nat.strong_induction_on generalizing s with
  | _ n ih =>
    cases hb : s.status.busy with
    | false => exact ⟨0, s, by omega, rfl, hb⟩
    | true =>
      obtain ⟨t, ht⟩ := h.exists_next
      have hstep : step s = .next t := (step_of_host_nil hhost).trans ht
      have hlt := h.stepsLeft_lt (h.flags.busy_iff.1 hb) ht
      obtain ⟨k, u, hk, hrun, hidle⟩ := ih t.stepsLeft (hn ▸ hlt) (stepKeepsInvariant s t h hstep)
        ((sequencerStep_keeps ht).host.trans hhost) rfl
      exact ⟨k + 1, u, by omega, (run_succ hstep k).trans hrun, hidle⟩

/-- Settles O60: the steps left fall with every step, and are at most those of the longest BUILD run. -/
theorem everyRunTerminates : Obligations.EveryRunTerminates := by
  unfold Obligations.EveryRunTerminates
  intro s h hhost
  obtain ⟨k, t, hk, hrun, hidle⟩ := h.terminates hhost
  exact ⟨k, t, hk.trans h.stepsLeft_le, hrun, hidle⟩

end Sys2Proof.Machine
end

/-! ## A QUANT run (spec/41_quantizer.md R130, spec/40_commands.md R113)

The four steps that make the palette, and the steps of Q_MAP, one a pixel; alone or under BUILD. -/

section
namespace Sys2Proof.Machine

variable {s t : State}

/-- With no move of the host a step runs the row PHASE selects (spec/20_memory.md R71). -/
theorem step_eq_exec {p : BitVec 5} (i : Instr) (hhost : s.host = []) (hp : s.phase = p)
    (hd : ∀ c, decodeStep p c = .ok i) : step s = exec i s :=
  (step_of_host_nil hhost).trans (sequencerStep_eq i hp hd)

/-! ### The palette -/

/-- Padding leaves the entries below NCOLW and blackens those from it on (spec/41_quantizer.md R142). -/
theorem palEntry_of_padded {n : Nat} (h : ∀ a, t.palAt a = if 3 * n ≤ a ∧ a < 768 then 0 else s.palAt a) {i : Nat}
    (hi : i < 256) : t.palEntry i = if i < n then s.palEntry i else black := by
  unfold State.palEntry black
  by_cases hn : i < n
  · rw [if_pos hn, h, h, h, if_neg (by omega), if_neg (by omega), if_neg (by omega)]
  · rw [if_neg hn, h, h, h, if_pos (by omega), if_pos (by omega), if_pos (by omega)]

/-- The bucket of Q_CUT is the sampled colours (spec/41_quantizer.md R133, R135). -/
theorem bucket_of_samples {n : Nat} (hstride : t.stride.toNat = sampleStride n) (hnsmp : t.nsmp.toNat = sampleCount n)
    (h : ∀ j, j < t.nsmp.toNat → t.smpAt j = s.col (j * t.stride.toNat)) :
    (List.range t.nsmp.toNat).map t.smpAt = s.sampledColours n := by
  rw [State.sampledColours, ← hnsmp, ← hstride]
  exact List.map_congr_left fun j hj => h j (List.mem_range.1 hj)

/-- What the palette is made of the sampled colours: the cut, padded with black (spec/41_quantizer.md R136, R142). -/
structure State.Quantized (s : State) (cols : List Colour) : Prop where
  ncolw : s.ncolw.toNat = cols.length
  entry : ∀ i, i < 256 → s.palEntry i = cols.getD i black

/-- The first four steps of QNT, from an image of matching shape (spec/41_quantizer.md R131 to R142). -/
theorem qnt_makes_palette (hhost : s.host = []) (hp : s.phase = phQCheck) (h1 : 1 ≤ s.pixelCount)
    (hmax : s.pixelCount ≤ s.params.maxPix) (hlen : s.pixlen.toNat = 4 * s.pixelCount) :
    ∃ t : State, run 4 s = .next t ∧
      t =
        { s with
          count := t.count
          stride := t.stride
          nsmp := t.nsmp
          smp := t.smp
          ncolw := t.ncolw
          pal := t.pal
          draws := t.draws
          pos := 0
          phase := phQMap } ∧
      t.count.toNat = s.pixelCount ∧ t.Quantized (cut 8 (s.sampledColours s.pixelCount)) := by
  obtain ⟨-, -, -, hcheck⟩ := qCheckTests s
  obtain ⟨a, ha, hfa, hcount⟩ := hcheck (by rw [State.pixelCount] at h1; omega) hmax hlen
  have hpa : a.phase = phQSample := by rw [hfa]
  obtain ⟨b, hb, hfb, hstride, hnsmp, hsmp, -⟩ := qSampleFillsSmp a (by rw [hcount, hfa]; exact hmax)
  have hpb : b.phase = phQCut := by rw [hfb]
  have hbucket : (List.range b.nsmp.toNat).map b.smpAt = s.sampledColours s.pixelCount := by
    refine bucket_of_samples (hstride.trans (congrArg sampleStride hcount)) ?_ fun j hj => (hsmp j hj).trans ?_
    · rw [hnsmp, hstride, hcount]
      rfl
    · rw [hfa]
      rfl
  have hroom : b.nsmp.toNat ≤ 100000 := by
    have := congrArg List.length hbucket
    rw [List.length_map, List.length_range] at this
    rw [this, State.sampledColours, List.length_map, List.length_range]
    exact sampleCount_le _
  obtain ⟨c, hc, hfc, -, -, hcols⟩ := qCutWritesPalette b hroom
  rw [hbucket] at hcols
  obtain ⟨hncolw, hentry, -⟩ := hcols
  have hpc : c.phase = phQPad := by rw [hfc]
  obtain ⟨d, hd, hfd, hpad⟩ := qPadBlackens c
  have hhosts : a.host = [] ∧ b.host = [] ∧ c.host = [] := by
    rw [hfc, hfb, hfa]
    exact ⟨hhost, hhost, hhost⟩
  obtain ⟨hha, hhb, hhc⟩ := hhosts
  refine ⟨d, ?_, ?_, ?_, ?_, fun i hi => ?_⟩
  · rw [run_succ ((step_eq_exec .qCheck hhost hp fun _ => rfl).trans ha),
      run_succ ((step_eq_exec .qSample hha hpa fun _ => rfl).trans hb),
      run_succ ((step_eq_exec .qCut hhb hpb fun _ => rfl).trans hc),
      run_succ ((step_eq_exec .qPad hhc hpc fun _ => rfl).trans hd), run]
  · rw [hfd, hfc, hfb, hfa]
  · rw [hfd, hfc, hfb]
    exact hcount
  · rw [hfd]
    exact hncolw
  · rw [palEntry_of_padded hpad hi, hncolw]
    split
    · exact hentry i ‹_›
    · rw [List.getD_eq_default _ _ (by omega)]

/-! ### The indices -/

theorem State.mapped_idxAt_ne {a : Nat} (h : a ≠ s.pos.toNat) : s.mapped.idxAt a = s.idxAt a :=
  (s.mapped_idxAt a).trans (if_neg h)

/-- Q_MAP from a pixel on to the last (spec/41_quantizer.md R144). -/
theorem qMap_maps_rest {n : Nat} (hparams : s.params.Ok) (hhost : s.host = []) (hp : s.phase = phQMap)
    (hmax : s.count.toNat ≤ s.params.maxPix) (hn : s.pos.toNat + (n + 1) = s.count.toNat) :
    ∃ v : State, run (n + 1) s = .next v.finishQnt ∧ v = { s with idx := v.idx, pos := v.pos } ∧
      (∀ a, a < s.pos.toNat → v.idxAt a = s.idxAt a) ∧
      ∀ p, s.pos.toNat ≤ p → p < s.count.toNat → IsNearest s.palEntry (s.col p) (v.idxAt p).toNat := by
  induction n generalizing s with
  | zero =>
    have hpix : s.pos.toNat < s.params.maxPix := by omega
    have hnext := State.pos_succ_toNat hparams hpix
    have hlast : s.pos + 1 = s.count := BitVec.eq_of_toNat_eq (by omega)
    refine ⟨s.mapped, ?_, rfl, fun a ha => State.mapped_idxAt_ne (by omega), fun p hlo hhi => ?_⟩
    · rw [run_succ ((step_eq_exec .qMap hhost hp fun _ => rfl).trans (execQMap_last hpix hlast)), run]
    · obtain rfl : p = s.pos.toNat := by omega
      exact isNearest_mapped rfl
  | succ n ih =>
    have hpix : s.pos.toNat < s.params.maxPix := by omega
    have hnext := State.pos_succ_toNat hparams hpix
    have hmore : s.pos + 1 ≠ s.count := fun e => by
      rw [← e] at hn
      omega
    have hrest : (s.pos + 1).toNat + (n + 1) = s.count.toNat := by omega
    obtain ⟨v, hrun, hframe, hbelow, hmapped⟩ := ih (s := s.mapped) hparams hhost hp hmax hrest
    refine ⟨v, ?_, hframe, fun a ha => ?_, fun p hlo hhi => ?_⟩
    · rw [run_succ ((step_eq_exec .qMap hhost hp fun _ => rfl).trans (execQMap_more hpix hmore)), hrun]
    · rw [hbelow a (by change a < (s.pos + 1).toNat; omega), State.mapped_idxAt_ne (by omega)]
    · rcases Nat.eq_or_lt_of_le hlo with rfl | hlt
      · exact isNearest_mapped (hbelow _ (by change _ < (s.pos + 1).toNat; omega))
      · exact hmapped p (by change (s.pos + 1).toNat ≤ p; omega) hhi

/-! ### The unit's run -/

/-- All of QNT: the state in which the last pixel is mapped, and which `finishQnt` completes. -/
theorem qnt_runs (hparams : s.params.Ok) (hhost : s.host = []) (hp : s.phase = phQCheck) (h1 : 1 ≤ s.pixelCount)
    (hmax : s.pixelCount ≤ s.params.maxPix) (hlen : s.pixlen.toNat = 4 * s.pixelCount) :
    ∃ v : State, run (4 + s.pixelCount) s = .next v.finishQnt ∧
      v =
        { s with
          count := v.count
          stride := v.stride
          nsmp := v.nsmp
          smp := v.smp
          ncolw := v.ncolw
          pal := v.pal
          idx := v.idx
          draws := v.draws
          pos := v.pos
          phase := phQMap } ∧
      v.count.toNat = s.pixelCount ∧ v.Quantized (cut 8 (s.sampledColours s.pixelCount)) ∧
      ∀ p, p < s.pixelCount → IsNearest v.palEntry (s.col p) (v.idxAt p).toNat := by
  obtain ⟨t, hrun, hft, hcount, hpalette⟩ := qnt_makes_palette hhost hp h1 hmax hlen
  obtain ⟨n, hn⟩ : ∃ n, s.pixelCount = n + 1 := ⟨s.pixelCount - 1, by omega⟩
  have hpos : t.pos = 0 := by rw [hft]
  have hparams' : t.params = s.params := by rw [hft]
  have hpix : t.pix = s.pix := by rw [hft]
  obtain ⟨v, hrun', hfv, -, hmapped⟩ :=
    qMap_maps_rest (s := t) (n := n) (hparams' ▸ hparams) (by rw [hft]; exact hhost) (by rw [hft])
      (by rw [hcount, hparams']; exact hmax) (by rw [hpos, hcount, hn]; exact Nat.zero_add _)
  refine ⟨v, ?_, ?_, ?_, ⟨?_, ?_⟩, fun p hlt => ?_⟩
  · rw [run_add hrun, hn, hrun']
  · rw [hfv, hft]
  · rw [hfv]
    exact hcount
  · rw [hfv]
    exact hpalette.ncolw
  · rw [hfv]
    exact hpalette.entry
  · have hcol : t.col p = s.col p := by simp [State.col, State.pixAt, hpix]
    have hpal : v.palEntry = t.palEntry := by rw [hfv]; rfl
    rw [← hcol, hpal]
    exact hmapped p (by simp [hpos]) (hcount.symm ▸ hlt)

/-- Settles O27: the unit's run from the launched state, which QNT's end completes alone. -/
theorem quantRun : Obligations.QuantRun := by
  unfold Obligations.QuantRun
  intro s hparams hidle hhost h1 hmax hlen
  obtain ⟨v, hrun, hframe, hcount, hpalette, hmapped⟩ :=
    qnt_runs (s := { s with ncol := 0 }.launch .qnt false phQCheck) hparams hhost rfl h1 hmax hlen
  have halone := finishQnt_alone (s := v) (by rw [hframe]; rfl)
  refine ⟨_, v.finishQnt, accepted_idle hidle, hrun, ?_, ?_, ⟨?_, ?_⟩, fun p hp => ?_⟩
  · rw [halone, hframe]
    rfl
  · rw [halone]
    exact hcount
  · rw [halone]
    exact hpalette.ncolw
  · rw [halone]
    exact hpalette.entry
  · rw [finishQnt_idxAt (hcount.symm ▸ hp)]
    have hpal : v.finishQnt.palEntry = v.palEntry := by rw [halone]; rfl
    rw [hpal]
    exact hmapped p hp

end Sys2Proof.Machine
end

/-! ## A FRAME run (spec/42_gif_framer.md R160 to R168, spec/40_commands.md R114)

The steps append the file's blocks to GIF one after the other; alone or at the end of a BUILD run. -/

section
namespace Sys2Proof.Machine

variable {s t : State}

/-! ### The file so far -/

/-- The bytes of GIF below GPTR: what FRM has written so far (spec/42_gif_framer.md R168). -/
def State.gifList (s : State) : List Byte := (List.range s.gptr.toNat).map s.gifAt

theorem State.gifList_length (s : State) : s.gifList.length = s.gptr.toNat := by
  rw [State.gifList, List.length_map, List.length_range]

theorem State.Appends.gifList {bytes : List Byte} (h : s.Appends t bytes) : t.gifList = s.gifList ++ bytes := by
  rw [State.gifList, h.gptr, map_range_add]
  congr 1
  · exact List.map_congr_left fun a ha => h.others a (.inl (List.mem_range.1 ha))
  · refine List.ext_getElem (by simp) fun i hi hi' => ?_
    rw [List.getElem_map, List.getElem_range, h.stored i hi', List.getD_eq_getElem _ _ hi']

/-! ### The blocks before the image data -/

/-- F_CHECK and the four steps of fixed length (spec/42_gif_framer.md R161 to R165). -/
theorem frm_writes_head (hparams : s.params.Ok) (hhost : s.host = []) (hp : s.phase = phFCheck) (hmincs : s.mincs = 8)
    (hne : ¬(s.width = 0 ∨ s.height = 0 ∨ s.csblen = 0))
    (hroom : 802 + s.csblen.toNat + (s.csblen.toNat + 254) / 255 ≤ s.params.gifCap) :
    ∃ t : State, run 5 s = .next t ∧ t = { s with gif := t.gif, gptr := t.gptr, pos := 0, phase := phFData } ∧
      t.gptr = 800 ∧ t.gifList = gifHead s.width s.height ++ (s.palList ++ gifImage s.width s.height) := by
  obtain ⟨-, -, -, hcheck⟩ := fCheckTests s
  have ha := hcheck hmincs hne hroom
  generalize hfa : ({ s with gptr := 0, phase := 9 } : State) = a at ha
  have hka : s.Keeps a := by rw [← hfa]; exact { State.Keeps.refl s with }
  have hga : a.gptr = 0 := by rw [← hfa]
  have hfits : ∀ {u : State} {g : BitVec 32} {n : Nat}, s.Keeps u → u.gptr = g → g.toNat + n ≤ 802 →
      u.gptr.toNat + n ≤ u.params.gifCap := by
    rintro u g n hku rfl hn
    rw [hku.params]
    omega
  obtain ⟨b, hb, hfb, hgb, hab⟩ := fHeadWrites a (hka.params ▸ hparams) (hfits hka hga (by decide))
  have hkb : s.Keeps b := by rw [hfb]; exact { hka with }
  have hgb := hgb hga
  obtain ⟨c, hc, hfc, hgc, hbc⟩ := fGctWrites b (hkb.params ▸ hparams) (hfits hkb hgb (by decide))
  have hkc : s.Keeps c := by rw [hfc]; exact { hkb with }
  have hgc := hgc hgb
  obtain ⟨d, hd, hfd, hgd, hcd⟩ := fGceWrites c (hkc.params ▸ hparams) (hfits hkc hgc (by decide))
  have hkd : s.Keeps d := by rw [hfd]; exact { hkc with }
  have hgd := hgd hgc
  obtain ⟨e, he, hfe, hge, hde⟩ := fImgWrites d (hkd.params ▸ hparams) (hfits hkd hgd (by decide))
  refine ⟨e, ?_, ?_, hge hgd, ?_⟩
  · rw [run_succ ((step_eq_exec .fCheck hhost hp fun _ => rfl).trans ha),
      run_succ ((step_eq_exec .fHead (hka.host.trans hhost) (by rw [← hfa]) fun _ => rfl).trans hb),
      run_succ ((step_eq_exec .fGct (hkb.host.trans hhost) (by rw [hfb]) fun _ => rfl).trans hc),
      run_succ ((step_eq_exec .fGce (hkc.host.trans hhost) (by rw [hfc]) fun _ => rfl).trans hd),
      run_succ ((step_eq_exec .fImg (hkd.host.trans hhost) (by rw [hfd]) fun _ => rfl).trans he), run]
  · rw [hfe, hfd, hfc, hfb, ← hfa]
  · have hempty : a.gifList = [] := by
      rw [State.gifList, hga]
      rfl
    have hpal : b.palList = s.palList := by
      rw [hfb, ← hfa]
      rfl
    rw [hde.gifList, hcd.gifList, hbc.gifList, hab.gifList, hempty, hpal, hka.width, hka.height, hkd.width,
      hkd.height, List.nil_append, List.append_assoc, List.append_assoc]
    rfl

/-! ### The image data -/

/-- The bytes of the stream from POS on (spec/42_gif_framer.md R166). -/
def State.csbRest (s : State) : List Byte := (s.csbList s.csblen.toNat).drop s.pos.toNat

theorem State.csbRest_length (s : State) : s.csbRest.length = s.csblen.toNat - s.pos.toNat := by
  simp [State.csbRest, State.csbList]

/-- A sub-block's data are the next bytes of the stream. -/
theorem State.csbRest_take (s : State) :
    (List.range (min 255 (s.csblen.toNat - s.pos.toNat))).map (fun i => s.csbAt (s.pos.toNat + i)) =
      s.csbRest.take 255 := by
  refine List.ext_getElem (by simp [s.csbRest_length]) fun i hi hi' => ?_
  simp [State.csbRest, State.csbList]

/-- F_DATA writes the next sub-block of the stream (spec/42_gif_framer.md R166). -/
theorem fData_writes_next {n : Nat} (hparams : s.params.Ok) (hhost : s.host = []) (hp : s.phase = phFData)
    (hpos : s.pos.toNat < s.csblen.toNat) (hcsb : s.csblen.toNat ≤ s.params.csbCap)
    (hn : n = min 255 (s.csblen.toNat - s.pos.toNat)) (hroom : s.gptr.toNat + n + 1 ≤ s.params.gifCap) :
    ∃ t : State, step s = .next t ∧
      t = { s with gif := t.gif, gptr := t.gptr, pos := t.pos, phase := t.phase } ∧
      t.phase = (if s.pos.toNat + n = s.csblen.toNat then phFTrail else phFData) ∧ t.pos.toNat = s.pos.toNat + n ∧
      t.gptr.toNat = s.gptr.toNat + (n + 1) ∧ t.csbRest = s.csbRest.drop 255 ∧
      t.gifList = s.gifList ++ BitVec.ofNat 8 (min 255 s.csbRest.length) :: s.csbRest.take 255 := by
  obtain ⟨t, ht, hft, -, hnext, hphase, happ⟩ := fDataWritesSubBlock s n hparams hpos hcsb hn hroom
  refine ⟨t, (step_eq_exec .fData hhost hp fun _ => rfl).trans ht, hft, ?_, hnext, ?_, ?_, ?_⟩
  · rw [hphase, hp]
  · simpa using happ.gptr
  · have hlist : t.csbList t.csblen.toNat = s.csbList s.csblen.toNat := by
      rw [hft]
      rfl
    rw [State.csbRest, State.csbRest, hlist, hnext, List.drop_drop]
    by_cases hlong : 255 ≤ s.csblen.toNat - s.pos.toNat
    · rw [hn, Nat.min_eq_left hlong]
    · rw [List.drop_eq_nil_of_le, List.drop_eq_nil_of_le] <;> simp only [State.csbList, List.length_map,
        List.length_range] <;> omega
  · rw [happ.gifList, s.csbRest_length, ← s.csbRest_take, hn]

/-- F_DATA from a sub-block on to the last (spec/42_gif_framer.md R166). -/
theorem fData_writes_rest {k : Nat} (hparams : s.params.Ok) (hhost : s.host = []) (hp : s.phase = phFData)
    (hpos : s.pos.toNat < s.csblen.toNat) (hcsb : s.csblen.toNat ≤ s.params.csbCap)
    (hk : (s.csblen.toNat - s.pos.toNat + 254) / 255 = k + 1)
    (hroom : s.gptr.toNat + (s.csblen.toNat - s.pos.toNat) + (k + 1) ≤ s.params.gifCap) :
    ∃ t : State, run (k + 1) s = .next t ∧
      t = { s with gif := t.gif, gptr := t.gptr, pos := t.pos, phase := phFTrail } ∧
      t.gifList = s.gifList ++ subBlocks s.csbRest := by
  induction k using Nat.strong_induction_on generalizing s with
  | _ k ih =>
    obtain ⟨n, hn⟩ : ∃ n, n = min 255 (s.csblen.toNat - s.pos.toNat) := ⟨_, rfl⟩
    obtain ⟨t, ht, hft, hphase, hnext, hgptr, hrest, hgif⟩ :=
      fData_writes_next hparams hhost hp hpos hcsb hn (by omega)
    have hne : s.csbRest ≠ [] := List.ne_nil_of_length_pos (by rw [s.csbRest_length]; omega)
    rw [subBlocks_of_ne_nil hne, ← hrest]
    by_cases hend : s.pos.toNat + n = s.csblen.toNat
    · obtain rfl : k = 0 := by omega
      have hempty : t.csbRest = [] := List.eq_nil_of_length_eq_zero (by
        rw [hrest, List.length_drop, s.csbRest_length]
        omega)
      refine ⟨t, run_succ ht 0, hft.trans (by rw [hphase, if_pos hend]), ?_⟩
      rw [hgif, hempty, subBlocks_nil, List.append_nil]
    · obtain ⟨j, rfl⟩ : ∃ j, k = j + 1 := ⟨k - 1, by omega⟩
      have hsame : t.params = s.params ∧ t.host = s.host ∧ t.csblen = s.csblen := by
        rw [hft]
        exact ⟨rfl, rfl, rfl⟩
      obtain ⟨hsp, hsh, hsc⟩ := hsame
      obtain ⟨u, hu, hfu, hgif'⟩ := ih j (Nat.lt_succ_self j) (s := t) (hsp ▸ hparams) (hsh.trans hhost)
        (hphase.trans (if_neg hend)) (by rw [hsc]; omega) (by rw [hsc, hsp]; exact hcsb) (by rw [hsc]; omega)
        (by rw [hsc, hsp]; omega)
      refine ⟨u, (run_succ ht _).trans hu, ?_, ?_⟩
      · rw [hfu, hft]
      · rw [hgif', hgif, List.append_assoc, List.cons_append]

/-! ### The unit's run -/

/-- F_TRAIL ends the file (spec/42_gif_framer.md R167). -/
theorem fTrail_writes_end {l : List Byte} (hlist : s.gifList = l) (hgiflen : t.giflen.toNat = s.gptr.toNat + 2)
    (h0 : t.gifAt s.gptr.toNat = 0x00) (h1 : t.gifAt (s.gptr.toNat + 1) = 0x3B)
    (hkept : ∀ a, a < s.gptr.toNat → t.gifAt a = s.gifAt a) :
    (List.range t.giflen.toNat).map t.gifAt = l ++ [0x00, 0x3B] := by
  rw [hgiflen, map_range_add, ← hlist, State.gifList, List.map_congr_left fun a ha => hkept a (List.mem_range.1 ha)]
  congr 1
  simp [List.range_succ, h0, h1]

/-- All of FRM, from inputs that pass its checks: the file, and the end of the run. -/
theorem frm_runs (hparams : s.params.Ok) (hhost : s.host = []) (hp : s.phase = phFCheck) (hmincs : s.mincs = 8)
    (hne : ¬(s.width = 0 ∨ s.height = 0 ∨ s.csblen = 0)) (hcsb : s.csblen.toNat ≤ s.params.csbCap)
    (hroom : 802 + s.csblen.toNat + (s.csblen.toNat + 254) / 255 ≤ s.params.gifCap) :
    ∃ t : State, run (6 + (s.csblen.toNat + 254) / 255) s = .next t ∧
      t =
        { s with
          status := ⟨false, true, s.status.err, s.status.errCode, s.status.unit⟩
          chain := false
          phase := 0
          giflen := t.giflen
          pos := t.pos
          gptr := t.gptr
          gif := t.gif
          idx := t.idx
          draws := t.draws } ∧
      t.giflen.toNat = 802 + s.csblen.toNat + (s.csblen.toNat + 254) / 255 ∧
      (List.range t.giflen.toNat).map t.gifAt = gifFile s.width s.height s.palList (s.csbList s.csblen.toNat) ∧
      (s.chain = false → t.idx = s.idx) ∧ ∀ a, a < s.len.toNat → t.idxAt a = s.idxAt a := by
  have hpositive : 1 ≤ s.csblen.toNat := one_le_toNat fun h0 => hne (.inr (.inr h0))
  obtain ⟨k, hk⟩ : ∃ k, (s.csblen.toNat + 254) / 255 = k + 1 := ⟨(s.csblen.toNat + 254) / 255 - 1, by omega⟩
  obtain ⟨b, hb, hfb, hgb, hgif⟩ := frm_writes_head hparams hhost hp hmincs hne hroom
  have hsame : b.params = s.params ∧ b.host = s.host ∧ b.csblen = s.csblen ∧ b.pos = 0 ∧ b.phase = phFData := by
    rw [hfb]
    exact ⟨rfl, rfl, rfl, rfl, rfl⟩
  obtain ⟨hsp, hsh, hsc, hpos, hphase⟩ := hsame
  have hrest : b.csbRest = s.csbList s.csblen.toNat := by
    rw [State.csbRest, hpos, hfb]
    rfl
  obtain ⟨c, hc, hfc, hgif'⟩ :=
    fData_writes_rest (s := b) (k := k) (hsp ▸ hparams) (hsh.trans hhost) hphase (by simp [hsc, hpos]; omega)
      (by rw [hsc, hsp]; exact hcsb) (by simp [hsc, hpos]; omega) (by simp [hsc, hsp, hpos, hgb]; omega)
  rw [hgif, hrest] at hgif'
  have hsame : c.params = s.params ∧ c.host = s.host ∧ c.chain = s.chain ∧ c.idx = s.idx ∧ c.len = s.len := by
    rw [hfc, hfb]
    exact ⟨rfl, rfl, rfl, rfl, rfl⟩
  obtain ⟨hcp, hch, hcc, hci, hcl⟩ := hsame
  have hgc : c.gptr.toNat = 800 + s.csblen.toNat + (s.csblen.toNat + 254) / 255 := by
    have hlen := congrArg List.length hgif'
    rw [c.gifList_length] at hlen
    simp [gifHead, gifImage, State.palList, subBlocks_length, State.csbList] at hlen
    omega
  obtain ⟨t, ht, hft, hgiflen, -, h0, h1, hkept, halone, hidx⟩ :=
    fTrailCompletes c (hcp ▸ hparams) (by rw [hcp]; omega)
  refine ⟨t, ?_, ?_, by omega, ?_, fun hchain => ?_, fun a ha => ?_⟩
  · rw [hk, show 6 + (k + 1) = 5 + ((k + 1) + 1) by omega, run_add hb, run_add hc,
      run_succ ((step_eq_exec .fTrail (hch.trans hhost) (by rw [hfc]) fun _ => rfl).trans ht), run]
  · rw [hft, hfc, hfb]
  · rw [fTrail_writes_end hgif' hgiflen h0 h1 hkept, gifFile_eq]
    simp only [List.append_assoc]
  · rw [halone (hcc.trans hchain), hci]
  · rw [hidx a (hcl.symm ▸ ha), State.idxAt, hci]
    rfl

/-- Settles O36: the unit's run from the launched state, which writes the file block by block. -/
theorem frameRun : Obligations.FrameRun := by
  unfold Obligations.FrameRun
  intro s hparams hidle hhost hmincs hw hh hc hcsb hroom
  obtain ⟨t, hrun, hframe, hgiflen, hfile, halone, -⟩ :=
    frm_runs (s := { s with giflen := 0 }.launch .frm false phFCheck) hparams hhost rfl hmincs
      (by rintro (h | h | h); exacts [hw h, hh h, hc h]) hcsb hroom
  refine ⟨_, t, accepted_idle hidle, hrun, ?_, hgiflen, hfile⟩
  rw [halone rfl] at hframe
  exact hframe

end Sys2Proof.Machine
end

/-! ## An LZW run (spec/43_lzw.md R195, R198, spec/40_commands.md R115)

The bits produced so far, followed by those of the codes the summary's loop still emits, stay the same from step to step: so
the stream in CSB at the end is the summary's. -/

section
namespace Sys2Proof.Machine

variable {s t : State} {D : Dict}

/-! ### The bits of the whole run -/

/-- The bytes still to be consumed in L_LOOP (spec/43_lzw.md R189). -/
def State.idxRest (s : State) : List Nat := (s.indexList s.len.toNat).drop s.pos.toNat

/-- The bits of the whole run: those produced so far, and those of the codes that the summary's loop emits from here on
(spec/43_lzw.md R195). -/
def State.allBits (s : State) (D : Dict) : List Bool :=
  s.bitString ++ codeBits (lzwLoop s.mincs.toNat s.idxRest s.next.toNat s.cw.toNat D s.w.toNat)

theorem State.bitString_length (s : State) : s.bitString.length = 8 * s.optr.toNat + s.nbits.toNat := by
  simp [State.bitString, streamBits_length]

theorem State.idxRest_cons (h : s.pos.toNat < s.len.toNat) :
    s.idxRest = (s.idxAt s.pos.toNat).toNat :: (s.indexList s.len.toNat).drop (s.pos.toNat + 1) := by
  rw [State.idxRest, List.drop_eq_getElem_cons (by simpa [State.indexList] using h)]
  simp [State.indexList]

theorem State.idxRest_nil (h : s.pos = s.len) : s.idxRest = [] := by
  rw [State.idxRest, h]
  exact List.drop_eq_nil_of_le (by simp [State.indexList])

/-! ### The summary's dictionary and the table -/

/-- The summary's dictionary holds the entries of the table (spec/43_lzw.md R182, R195). -/
def State.Holds (s : State) (D : Dict) : Prop :=
  ∀ (w : BitVec 12) (k : Byte) (c : Nat), dictGet D w.toNat k.toNat = some c ↔ s.IsEntry w k c

theorem State.Holds.congr (h : s.Holds D) (hp : t.pfx = s.pfx) (hs : t.sfx = s.sfx) (hn : t.next = s.next)
    (hm : t.mincs = s.mincs) : t.Holds D := by
  intro w k c
  simp only [State.IsEntry, State.pfxAt, State.sfxAt, hp, hs, hn, hm]
  exact h w k c

theorem State.holds_seeded (hn : s.next.toNat = s.first) : s.Holds [] := by
  intro w k c
  refine ⟨fun h => (Option.some_ne_none c h.symm).elim, fun ⟨hfirst, hlt, _⟩ => ?_⟩
  have hf : s.first = 2 ^ s.mincs.toNat + 2 := rfl
  omega

theorem dictGet_cons (w k c w' k' : Nat) (D : Dict) :
    dictGet (((w, k), c) :: D) w' k' = if w = w' ∧ k = k' then some c else dictGet D w' k' := rfl

/-- An insertion puts the new pair into both (spec/43_lzw.md R191). -/
theorem State.Holds.insertEntry (h : s.Holds D) (hfirst : s.first ≤ s.next.toNat) (hroom : s.next.toNat < maxEnt)
    (hnew : dictGet D s.w.toNat s.k.toNat = none) :
    s.insertEntry.Holds (((s.w.toNat, s.k.toNat), s.next.toNat) :: D) := by
  intro w k c
  have hnext := State.insertEntry_next_toNat hroom
  have hmincs : s.insertEntry.mincs = s.mincs := rfl
  have hf : s.first = 2 ^ s.mincs.toNat + 2 := rfl
  have hold := h w k c
  simp only [dictGet_cons, BitVec.toNat_inj]
  unfold State.IsEntry at hold ⊢
  rw [hnext, hmincs, State.insertEntry_pfxAt, State.insertEntry_sfxAt]
  by_cases hc : c = s.next.toNat
  · rw [if_pos hc, if_pos hc]
    by_cases hpair : s.w = w ∧ s.k = k
    · rw [if_pos hpair, hc]
      simp only [true_iff]
      exact ⟨by omega, by omega, hpair⟩
    · rw [if_neg hpair, hold]
      constructor
      · omega
      · exact fun ⟨_, _, hpair'⟩ => absurd hpair' hpair
  · rw [if_neg hc, if_neg hc]
    by_cases hpair : s.w = w ∧ s.k = k
    · obtain ⟨rfl, rfl⟩ := hpair
      rw [hnew] at hold
      rw [if_pos ⟨rfl, rfl⟩]
      constructor
      · exact fun e => absurd (Option.some.inj e).symm hc
      · rintro ⟨hlo, hhi, hp⟩
        exact absurd (hold.2 ⟨hlo, by omega, hp⟩) (Option.some_ne_none c).symm
    · rw [if_neg hpair, hold]
      exact and_congr_right fun _ => and_congr_left fun _ => by omega

/-! ### L_LOOP follows the summary -/

/-- The state with the registers and memories of LZW as they are in another. -/
abbrev State.withCoder (s t : State) : State :=
  { s with
    pos := t.pos
    w := t.w
    k := t.k
    next := t.next
    cw := t.cw
    acc := t.acc
    nbits := t.nbits
    optr := t.optr
    pfx := t.pfx
    sfx := t.sfx
    csb := t.csb }

/-- A state of L_LOOP that stands where the summary's loop stands with a dictionary, CSB having room for the rest. -/
structure State.Coding (s : State) (D : Dict) : Prop where
  params : s.params.Ok
  host : s.host = []
  phase : s.phase = phLLoop
  mincs : 2 ≤ s.mincs.toNat ∧ s.mincs.toNat ≤ 8
  len : s.len.toNat ≤ s.params.maxPix
  symbols : ∀ i, i < s.len.toNat → (s.idxAt i).toNat < 2 ^ s.mincs.toNat
  position : s.pos.toNat ≤ s.len.toNat
  buffer : s.BufferOk
  table : s.TableOk
  pending : s.PendingOk
  holds : s.Holds D
  room : (s.allBits D).length ≤ 8 * s.params.csbCap

/-- A step of L_LOOP that consumes a byte, as the summary's loop does. -/
structure State.Follows (s t : State) (D E : Dict) : Prop where
  step : step s = .next t
  frame : t = s.withCoder t
  pos : t.pos.toNat = s.pos.toNat + 1
  coding : t.Coding E
  allBits : t.allBits E = s.allBits D

theorem State.Coding.bits_le (h : s.Coding D) :
    8 * s.optr.toNat + s.nbits.toNat +
      bitCount (lzwLoop s.mincs.toNat s.idxRest s.next.toNat s.cw.toNat D s.w.toNat) ≤ 8 * s.params.csbCap := by
  rw [← s.bitString_length, ← codeBits_length, ← List.length_append]
  exact h.room

section
variable (h : s.Coding D) (hpos : s.pos ≠ s.len)
include h hpos

theorem State.Coding.pos_lt : s.pos.toNat < s.len.toNat :=
  Nat.lt_of_le_of_ne h.position fun e => hpos (BitVec.eq_of_toNat_eq e)

theorem State.Coding.next_pos : (s.pos + 1).toNat = s.pos.toNat + 1 :=
  State.pos_succ_toNat h.params ((h.pos_lt hpos).trans_le h.len)

theorem State.Coding.consume : consumeSymbol s = .ok s.consumed :=
  consumeSymbol_ok ((h.pos_lt hpos).trans_le h.len) (h.symbols _ (h.pos_lt hpos))

/-- The next state of a consuming step, with what the step is to show of it. -/
theorem State.Coding.follows {E : Dict} (hstep : step s = .next t) (hframe : t = s.withCoder t)
    (hnext : t.pos = s.pos + 1) (hbuffer : t.BufferOk) (htable : t.TableOk) (hpending : t.PendingOk)
    (hholds : t.Holds E)
    (hbits : t.bitString ++
        codeBits (lzwLoop s.mincs.toNat ((s.indexList s.len.toNat).drop (s.pos.toNat + 1)) t.next.toNat t.cw.toNat E
          t.w.toNat) = s.allBits D) :
    s.Follows t D E := by
  have hpos' : t.pos.toNat = s.pos.toNat + 1 := hnext ▸ h.next_pos hpos
  have hlt := h.pos_lt hpos
  have hsame : t.params = s.params ∧ t.host = s.host ∧ t.phase = s.phase ∧ t.mincs = s.mincs ∧ t.len = s.len ∧
      t.idx = s.idx := by
    rw [hframe]
    exact ⟨rfl, rfl, rfl, rfl, rfl, rfl⟩
  obtain ⟨hparams, hhost, hphase, hmincs, hlen, hidx⟩ := hsame
  have hat : ∀ i, t.idxAt i = s.idxAt i := fun i => by rw [State.idxAt, hidx]; rfl
  have hall : t.allBits E = s.allBits D := by
    rw [← hbits, State.allBits, State.idxRest, hmincs, hlen, hpos', State.indexList, State.indexList]
    simp only [hat]
  exact ⟨hstep, hframe, hpos', {
    params := hparams ▸ h.params
    host := hhost.trans h.host
    phase := hphase.trans h.phase
    mincs := hmincs ▸ h.mincs
    len := by rw [hlen, hparams]; exact h.len
    symbols := fun i hi => by rw [hat, hmincs]; exact h.symbols i (hlen ▸ hi)
    position := by rw [hpos', hlen]; exact hlt
    buffer := hbuffer
    table := htable
    pending := hpending
    holds := hholds
    room := by rw [hall, hparams]; exact h.room }, hall⟩

/-- EXTEND: the pair is in the dictionary (spec/43_lzw.md R190). -/
theorem State.Coding.extend {c : Nat} (hc : dictGet D s.w.toNat (s.idxAt s.pos.toNat).toNat = some c) :
    ∃ t, s.Follows t D D := by
  have hlookup := (h.table.2.2.2.lookup_eq_some_iff _ _ _).2 ((h.holds _ _ _).1 hc)
  have hcase := (loopCase_extend s).2 ⟨hpos, c, hlookup⟩
  have hw : s.consumed.lookup s.consumed.w s.consumed.k = some c := hlookup
  have hexec := exec_lLoopExtend_consumed hcase (h.consume hpos)
  rw [hw] at hexec
  have hstep := (step_of_host_nil h.host).trans ((sequencerStep_lLoop .lLoopExtend h.phase hcase rfl).trans hexec)
  obtain ⟨-, hlt, -, -⟩ := lookup_some hlookup
  have hle := h.table.next_le
  have hcode : (BitVec.ofNat 12 c).toNat = c := Nat.mod_eq_of_lt (by rw [maxEnt] at hle; omega)
  refine ⟨_, h.follows hpos hstep rfl rfl h.buffer (h.table.congr rfl rfl rfl rfl rfl)
    (pendingOk_of_lookup rfl hlookup h.table.next_le) (h.holds.congr rfl rfl rfl rfl) ?_⟩
  rw [State.allBits, s.idxRest_cons (h.pos_lt hpos), lzwLoop_extend hc]
  change _ ++ codeBits (lzwLoop _ _ _ _ _ (BitVec.ofNat 12 c).toNat) = _
  rw [hcode]
  rfl

section
variable (hnew : dictGet D s.w.toNat (s.idxAt s.pos.toNat).toNat = none)
include hnew

omit hpos in
theorem State.Coding.no_entry (c : Nat) : ¬s.IsEntry s.w (s.idxAt s.pos.toNat) c := fun hc =>
  Option.some_ne_none c (((h.holds _ _ _).2 hc).symm.trans hnew)

/-- INSERT: the pair is not in the dictionary, which has room (spec/43_lzw.md R191). -/
theorem State.Coding.insert (hfree : s.next.toNat < 4096) :
    ∃ t, s.Follows t D (((s.w.toNat, (s.idxAt s.pos.toNat).toNat), s.next.toNat) :: D) := by
  have hno := h.no_entry hnew
  have hcase := loopCase_insert_of_no_entry hpos hno hfree
  obtain ⟨-, ⟨-, hcap⟩, -⟩ := h.params
  have hbits := h.bits_le
  rw [s.idxRest_cons (h.pos_lt hpos), lzwLoop_insert hnew hfree, bitCount_cons] at hbits
  obtain ⟨u, hu, he⟩ := emitCode_room (s := s.consumed) h.buffer (h.table.code_fits h.pending.1) hcap
    (by change s.optr.toNat + (s.nbits.toNat + s.cw.toNat) / 8 ≤ s.params.csbCap; dsimp only at hbits; omega)
  have hstep := (step_of_host_nil h.host).trans
    ((sequencerStep_lLoop .lLoopInsert h.phase hcase rfl).trans (exec_lLoopInsert_emitted hcase (h.consume hpos) hu))
  have htable : (s.consumed.withStream u).TableOk := h.table.congr rfl rfl rfl rfl rfl
  have htable' := htable.insertEntry hfree h.pending (h.symbols _ (h.pos_lt hpos)) (lookup_eq_none_of hno)
  have hholds : (s.consumed.withStream u).Holds D := h.holds.congr rfl rfl rfl rfl
  have hnext := State.insertEntry_next_toNat (s := s.consumed.withStream u) hfree
  have hcw := (s.consumed.withStream u).insertEntry_cw_toNat
  have hw : (s.consumed.withStream u).insertEntry.w.toNat = (s.idxAt s.pos.toNat).toNat :=
    BitVec.toNat_setWidth_of_le (by decide)
  have hemitted : (s.consumed.withStream u).insertEntry.bitString =
      s.bitString ++ (List.range s.cw.toNat).map s.w.toNat.testBit := he.emits.bitString h.buffer
  refine ⟨_, h.follows hpos hstep rfl rfl he.bufferOk htable'
    (pendingOk_of_literal rfl (h.symbols _ (h.pos_lt hpos)) htable'.1) (hholds.insertEntry h.table.1 hfree hnew) ?_⟩
  rw [State.allBits, s.idxRest_cons (h.pos_lt hpos), lzwLoop_insert hnew hfree, codeBits_cons, hnext, hcw, hw,
    hemitted, List.append_assoc]
  rfl

/-- RESET: the pair is not in the dictionary, which is full (spec/43_lzw.md R192). -/
theorem State.Coding.reset (hfull : 4096 ≤ s.next.toNat) : ∃ t, s.Follows t D [] := by
  have hno := h.no_entry hnew
  have hcase := loopCase_reset_of_no_entry hpos hno hfull
  obtain ⟨-, ⟨-, hcap⟩, -⟩ := h.params
  have hbits := h.bits_le
  rw [s.idxRest_cons (h.pos_lt hpos), lzwLoop_reset hnew hfull, bitCount_cons, bitCount_cons] at hbits
  obtain ⟨hw, hle⟩ := h.table.code_fits h.pending.1
  obtain ⟨u, v, hu, he, hv, he'⟩ := emitCode_twice_room (s := s.consumed) h.buffer hw
    (h.table.code_fits h.table.control_lt.1).1 hle hcap
    (by change s.optr.toNat + (s.nbits.toNat + 2 * s.cw.toNat) / 8 ≤ s.params.csbCap; dsimp only at hbits; omega)
  have hstep := (step_of_host_nil h.host).trans
    ((sequencerStep_lLoop .lLoopReset h.phase hcase rfl).trans
      (exec_lLoopReset_emitted hcase (h.consume hpos) hu hv))
  have htable := State.seed_tableOk (s := s.consumed.withStream v) h.mincs.1 h.mincs.2
  obtain ⟨hnext, hcw, -⟩ := seed_spec (s.consumed.withStream v) h.mincs.1 h.mincs.2
  have hw : ((s.idxAt s.pos.toNat).setWidth 12).toNat = (s.idxAt s.pos.toNat).toNat :=
    BitVec.toNat_setWidth_of_le (by decide)
  have hemitted : (s.consumed.withStream v).bitString =
      s.bitString ++ (List.range s.cw.toNat).map s.w.toNat.testBit ++
        (List.range s.cw.toNat).map (2 ^ s.mincs.toNat).testBit :=
    (he'.emits.bitString he.bufferOk).trans (congrArg (· ++ _) (he.emits.bitString h.buffer))
  refine ⟨_, h.follows hpos hstep rfl rfl he'.bufferOk (htable.congr rfl rfl rfl rfl rfl)
    (pendingOk_of_literal rfl (h.symbols _ (h.pos_lt hpos)) htable.1) (State.holds_seeded hnext) ?_⟩
  rw [State.allBits, s.idxRest_cons (h.pos_lt hpos), lzwLoop_reset hnew hfull, codeBits_cons, codeBits_cons]
  change (s.consumed.withStream v).bitString ++
    codeBits (lzwLoop _ _ (s.consumed.withStream v).seed.next.toNat (s.consumed.withStream v).seed.cw.toNat _
      ((s.idxAt s.pos.toNat).setWidth 12).toNat) = _
  rw [hnext, hcw, hw, hemitted, List.append_assoc, List.append_assoc]
  rfl

end

/-- Every consuming step does what the summary's loop does (spec/43_lzw.md R189, R195). -/
theorem State.Coding.exists_follows : ∃ t E, s.Follows t D E := by
  rcases lzwLoop_cases D s.w.toNat (s.idxAt s.pos.toNat).toNat s.next.toNat with ⟨c, hc⟩ | ⟨hnew, hfree⟩ | ⟨hnew, hfull⟩
  · exact (h.extend hpos hc).imp fun _ => .intro _
  · exact (h.insert hpos hnew hfree).imp fun _ => .intro _
  · exact (h.reset hpos hnew hfull).imp fun _ => .intro _

end

/-! ### The end of the unit -/

/-- The bits still buffered make one byte at most, padded with zeros (spec/30_encoding.md R87). -/
theorem packBits_buffer {n a : Nat} (hn : 0 < n) (h7 : n ≤ 7) (ha : a < 2 ^ n) :
    packBits ((List.range n).map a.testBit) = [BitVec.ofNat 8 a] := by
  have hlen : ((List.range n).map a.testBit).length = n := by rw [List.length_map, List.length_range]
  rw [packBits_of_ne_nil (List.ne_nil_of_length_pos (by omega)), List.take_of_length_le (by omega),
    List.drop_eq_nil_of_le (by omega), bitsValue_testBit, Nat.mod_eq_of_lt ha, packBits_nil]

/-- After the flush CSB holds the packed bits (spec/43_lzw.md R194). -/
theorem Flushed.csbList (h : Flushed s t) (hb : s.BufferOk) : t.csbList t.optr.toNat = packBits s.bitString := by
  have hkept : (List.range s.optr.toNat).map t.csbAt = (List.range s.optr.toNat).map s.csbAt :=
    List.map_congr_left fun a ha => h.kept a (List.mem_range.1 ha)
  rw [State.bitString, packBits_streamBits_append, State.csbList, h.optr]
  rcases Nat.eq_zero_or_pos s.nbits.toNat with h0 | hpos
  · rw [if_neg (by omega), h0, Nat.add_zero, hkept, List.range_zero, List.map_nil, packBits_nil, List.append_nil]
  · obtain ⟨hbyte, -⟩ := h.padded hpos
    rw [if_pos hpos, map_range_add, hkept]
    exact congrArg _ ((congrArg (fun b => [b]) hbyte).trans (packBits_buffer hpos hb.1 hb.2).symm)

/-- What an LZW run leaves, alone and under BUILD (spec/43_lzw.md R194, spec/40_commands.md R121). -/
structure State.LzwEnds (s t : State) : Prop where
  frame : t =
    { s.withCoder t with csblen := t.csblen, draws := t.draws, status := t.status, phase := t.phase }
  alone : s.chain = false → t.status = s.status.completed ∧ t.phase = phIdle
  chained : s.chain = true → t.status = s.status.chainedTo .frm ∧ t.phase = phFCheck

theorem State.LzwEnds.trans {u : State} (hframe : t = { s.withCoder t with phase := t.phase }) (h : t.LzwEnds u) :
    s.LzwEnds u := by
  have hsame : t.status = s.status ∧ t.chain = s.chain := by
    rw [hframe]
    exact ⟨rfl, rfl⟩
  obtain ⟨hstatus, hchain⟩ := hsame
  refine ⟨?_, fun hc => hstatus ▸ h.alone (hchain.trans hc), fun hc => hstatus ▸ h.chained (hchain.trans hc)⟩
  rw [h.frame, hframe]

theorem finishLzw_ends (s : State) : s.LzwEnds s.finishLzw := by
  cases hc : s.chain
  · rw [finishLzw_alone hc]
    exact ⟨by rw [← hc], fun _ => ⟨rfl, rfl⟩, fun hc' => absurd (hc.symm.trans hc') Bool.false_ne_true⟩
  · rw [finishLzw_chained hc]
    exact ⟨rfl, fun hc' => absurd (hc'.symm.trans hc) Bool.false_ne_true, fun _ => ⟨rfl, rfl⟩⟩

/-- L_FINISH with room for its two codes and the flush (spec/43_lzw.md R194). -/
theorem lFinish_ends (hparams : s.params.Ok) (hhost : s.host = []) (hp : s.phase = phLFinish) (hb : s.BufferOk)
    (htable : s.TableOk) (hpending : s.PendingOk)
    (hroom : 8 * s.optr.toNat + s.nbits.toNat + 2 * s.cw.toNat ≤ 8 * s.params.csbCap) :
    ∃ t : State, step s = .next t ∧ s.LzwEnds t ∧
      t.csbList t.csblen.toNat =
        packBits (s.bitString ++ codeBits [⟨s.w.toNat, s.cw.toNat⟩, ⟨2 ^ s.mincs.toNat + 1, s.cw.toNat⟩]) := by
  obtain ⟨-, ⟨-, hcap⟩, -⟩ := hparams
  obtain ⟨hw, hle⟩ := htable.code_fits hpending.1
  obtain ⟨u, v, hu, he, hv, he'⟩ :=
    emitCode_twice_room hb hw (htable.code_fits htable.control_lt.2).1 hle hcap (by omega)
  have hemitted : (s.withStream v).bitString =
      s.bitString ++ (List.range s.cw.toNat).map s.w.toNat.testBit ++
        (List.range s.cw.toNat).map (2 ^ s.mincs.toNat + 1).testBit :=
    (he'.emits.bitString he.bufferOk).trans (congrArg (· ++ _) (he.emits.bitString hb))
  have hbytes : 8 * (s.withStream v).optr.toNat + (s.withStream v).nbits.toNat =
      8 * s.optr.toNat + s.nbits.toNat + 2 * s.cw.toNat := by
    rw [← State.bitString_length, hemitted]
    simp [s.bitString_length]
    omega
  obtain ⟨x, hx, hflushed⟩ := flushAcc_room (s := s.withStream v) hcap (by
    rw [he'.bufferOk.pad]
    have hseven := he'.bufferOk.1
    change _ ≤ s.params.csbCap
    omega)
  refine ⟨_, (step_eq_exec .lFinish hhost hp fun _ => rfl).trans (exec_lFinish_flushed hu hv hx),
    .trans rfl (finishLzw_ends (s.withStream x)), ?_⟩
  obtain ⟨hcsblen, hoptr, -⟩ := (s.withStream x).finishLzw_fields
  rw [hcsblen.trans hoptr.symm, hflushed.finishLzw.csbList he'.bufferOk, hemitted, List.append_assoc,
    codeBits_cons, codeBits_singleton]

/-- L_LOOP's case END and L_FINISH (spec/43_lzw.md R193, R194). -/
theorem State.Coding.finish (h : s.Coding D) (hpos : s.pos = s.len) :
    ∃ t : State, run 2 s = .next t ∧ s.LzwEnds t ∧ t.csbList t.csblen.toNat = packBits (s.allBits D) := by
  have hbits := h.bits_le
  rw [s.idxRest_nil hpos, lzwLoop_nil, bitCount_cons, bitCount_cons, bitCount_nil] at hbits
  have hend : step s = .next { s with phase := phLFinish } := (step_of_host_nil h.host).trans
    ((sequencerStep_lLoop .lLoopEnd h.phase ((loopCase_fin s).2 hpos) rfl).trans (loopEnd s hpos))
  obtain ⟨t, ht, hends, hcsb⟩ := lFinish_ends (s := { s with phase := phLFinish }) h.params h.host rfl h.buffer
    (h.table.congr rfl rfl rfl rfl rfl) h.pending (by dsimp only at hbits ⊢; omega)
  refine ⟨t, by rw [run_succ hend, run_succ ht, run], .trans rfl hends, ?_⟩
  rw [hcsb, State.allBits, s.idxRest_nil hpos, lzwLoop_nil]
  rfl

/-- L_LOOP from a byte on to the end (spec/43_lzw.md R189 to R194). -/
theorem State.Coding.run_rest {n : Nat} (h : s.Coding D) (hn : s.pos.toNat + n = s.len.toNat) :
    ∃ t : State, run (n + 2) s = .next t ∧ s.LzwEnds t ∧ t.csbList t.csblen.toNat = packBits (s.allBits D) := by
  induction n generalizing s D with
  | zero =>
    rw [Nat.zero_add]
    exact h.finish (BitVec.eq_of_toNat_eq hn)
  | succ n ih =>
    have hpos : s.pos ≠ s.len := fun e => by
      rw [e] at hn
      omega
    obtain ⟨t, E, hf⟩ := h.exists_follows hpos
    have hlen : t.len = s.len := by rw [hf.frame]
    obtain ⟨u, hu, hends, hcsb⟩ := ih hf.coding (by rw [hf.pos, hlen]; omega)
    refine ⟨u, ?_, .trans (by rw [hf.frame]) hends, hcsb.trans (congrArg packBits hf.allBits)⟩
    rw [Nat.add_right_comm, run_succ hf.step, hu]

/-! ### The beginning of the unit -/

/-- What a run of LZW needs: a legal configuration, symbols below CLR, and room for the stream (spec/43_lzw.md R186). -/
structure State.Compressible (s : State) : Prop where
  mincs : 2 ≤ s.mincs.toNat ∧ s.mincs.toNat ≤ 8
  len : 1 ≤ s.len.toNat ∧ s.len.toNat ≤ s.params.maxPix
  symbols : ∀ i, i < s.len.toNat → (s.idxAt i).toNat < 2 ^ s.mincs.toNat
  room : (lzwStream s.mincs.toNat (s.indexList s.len.toNat)).length ≤ s.params.csbCap

/-- The state L_CHECK leaves (spec/43_lzw.md R186). -/
abbrev State.lStarted (s : State) : State := { s with pos := 0, optr := 0, acc := 0, nbits := 0, phase := phLInit }

/-- The state L_FIRST leaves, the stream being as it is in another (spec/43_lzw.md R187, R188). -/
abbrev State.firstTaken (s u : State) : State :=
  { s.lStarted.seed.withStream u with k := s.idxAt 0, w := (s.idxAt 0).setWidth 12, pos := 1, phase := phLLoop }

theorem State.indexList_eq_cons (h : 1 ≤ s.len.toNat) :
    s.indexList s.len.toNat = (s.idxAt 0).toNat :: (s.indexList s.len.toNat).drop 1 :=
  State.idxRest_cons (s := s.lStarted) h

/-- L_CHECK, L_INIT and L_FIRST: the Clear code is emitted and the first byte pending (spec/43_lzw.md R186 to R188). -/
theorem State.Compressible.begin (h : s.Compressible) (hparams : s.params.Ok) (hhost : s.host = [])
    (hp : s.phase = phLCheck) :
    ∃ t : State, run 3 s = .next t ∧ t = { s.withCoder t with phase := t.phase } ∧ t.pos = 1 ∧ t.Coding [] ∧
      t.allBits [] = codeBits (lzwCodes s.mincs.toNat (s.indexList s.len.toNat)) := by
  obtain ⟨h2, h8⟩ := h.mincs
  obtain ⟨h1, hmax⟩ := h.len
  have hcap := hparams.2.1
  obtain ⟨-, -, -, hcheck⟩ := lCheckTests s
  have hcheck := hcheck (by omega) (fun h0 => by rw [h0] at h1; exact absurd h1 (by decide)) hmax
  have htable : s.lStarted.seed.TableOk := State.seed_tableOk h2 h8
  have hbuffer : s.lStarted.seed.BufferOk := by simp [State.BufferOk, State.seed]
  obtain ⟨hnext, hcw, -⟩ := seed_spec s.lStarted h2 h8
  obtain ⟨u, hu, he⟩ := emitCode_room (s := s.lStarted.seed) hbuffer (htable.code_fits htable.control_lt.1) hcap.2
    (by rw [hcw]; change 0 + (0 + (s.mincs.toNat + 1)) / 8 ≤ s.params.csbCap; omega)
  have hsymbol : (s.idxAt 0).toNat < 2 ^ s.mincs.toNat := h.symbols 0 h1
  obtain ⟨hfirst, -⟩ := lFirstTakesByte { s.lStarted.seed.withStream u with phase := phLFirst } hparams
  have hfirst := hfirst hsymbol
  have hw : ((s.idxAt 0).setWidth 12).toNat = (s.idxAt 0).toNat := BitVec.toNat_setWidth_of_le (by decide)
  have hemitted : (s.lStarted.seed.withStream u).bitString =
      (List.range (s.mincs.toNat + 1)).map (2 ^ s.mincs.toNat).testBit :=
    hcw ▸ he.emits.bitString hbuffer
  have hall : (s.firstTaken u).allBits [] = codeBits (lzwCodes s.mincs.toNat (s.indexList s.len.toNat)) := by
    rw [s.indexList_eq_cons h1, lzwCodes, codeBits_cons]
    change (s.lStarted.seed.withStream u).bitString ++
      codeBits (lzwLoop _ _ s.lStarted.seed.next.toNat s.lStarted.seed.cw.toNat _ ((s.idxAt 0).setWidth 12).toNat) = _
    rw [hemitted, hnext, hcw, hw]
    rfl
  refine ⟨s.firstTaken u, ?_, rfl, rfl, {
    params := hparams
    host := hhost
    phase := rfl
    mincs := h.mincs
    len := hmax
    symbols := h.symbols
    position := h1
    buffer := he.bufferOk
    table := htable.congr rfl rfl rfl rfl rfl
    pending := pendingOk_of_literal rfl hsymbol htable.1
    holds := State.holds_seeded hnext
    room := ?_ }, hall⟩
  · rw [run_succ ((step_eq_exec .lCheck hhost hp fun _ => rfl).trans hcheck),
      run_succ ((step_eq_exec (s := s.lStarted) .lInit hhost rfl fun _ => rfl).trans (exec_lInit_emitted hu)),
      run_succ ((step_eq_exec (s := { s.lStarted.seed.withStream u with phase := phLFirst }) .lFirst hhost rfl
        fun _ => rfl).trans hfirst), run]
    rfl
  · have hroom := h.room
    rw [lzwStream_length] at hroom
    rw [hall, codeBits_length]
    change _ ≤ 8 * s.params.csbCap
    omega

/-- All of LZW: the stream of the summary, and the end of the unit (spec/43_lzw.md R195, R198). -/
theorem lzw_runs (h : s.Compressible) (hparams : s.params.Ok) (hhost : s.host = []) (hp : s.phase = phLCheck) :
    ∃ t : State, run (s.len.toNat + 4) s = .next t ∧ s.LzwEnds t ∧
      t.csbList t.csblen.toNat = lzwStream s.mincs.toNat (s.indexList s.len.toNat) := by
  obtain ⟨h1, -⟩ := h.len
  obtain ⟨n, hn⟩ : ∃ n, s.len.toNat = n + 1 := ⟨s.len.toNat - 1, by omega⟩
  obtain ⟨t, ht, hframe, hpos, hcoding, hall⟩ := h.begin hparams hhost hp
  have hlen : t.len = s.len := by rw [hframe]
  obtain ⟨u, hu, hends, hcsb⟩ := hcoding.run_rest (n := n) (by rw [hpos, hlen, hn]; exact Nat.add_comm 1 n)
  refine ⟨u, ?_, .trans hframe hends, hcsb.trans (congrArg packBits hall)⟩
  rw [hn, show n + 1 + 4 = 3 + (n + 2) by omega, run_add ht, hu]

/-- Settles O48: the unit's run from the launched state, which follows the summary byte by byte. -/
theorem lzwRun : Obligations.LzwRun := by
  unfold Obligations.LzwRun
  intro s hparams hidle hhost h2 h8 h1 hmax hsymbols hroom
  have hlaunched : ({ s with csblen := 0 }.launch .lzw false phLCheck).Compressible :=
    ⟨⟨h2, h8⟩, ⟨h1, hmax⟩, hsymbols, hroom⟩
  obtain ⟨t, ht, hends, hcsb⟩ := lzw_runs hlaunched hparams hhost rfl
  obtain ⟨hstatus, hphase⟩ := hends.alone rfl
  have hframe := hends.frame
  rw [hstatus, hphase] at hframe
  exact ⟨_, t, accepted_idle hidle, ht, hframe, hcsb⟩

end Sys2Proof.Machine
end

/-! ## A BUILD run (spec/40_commands.md R116)

The runs of QNT, LZW and FRM, one after the other: each leaves what the next one's checks ask for. -/

section
namespace Sys2Proof.Machine

variable {s t : State}

/-- The bounds on the stream of the first indices (spec/43_lzw.md R198). -/
theorem lzwStream_indexList_bounds (s : State) {n : Nat} (h1 : 1 ≤ n) :
    1 ≤ (lzwStream 8 (s.indexList n)).length ∧ (lzwStream 8 (s.indexList n)).length ≤ 2 * n + 4 := by
  have hlen : (s.indexList n).length = n := by rw [State.indexList, List.length_map, List.length_range]
  obtain ⟨hle, hge, -⟩ :=
    streamLengthBound 8 (s.indexList n) (by decide) (by decide) (List.ne_nil_of_length_pos (by omega))
  rw [hlen] at hle
  exact ⟨hge, hle⟩

/-- Under BUILD every index is a symbol, and CSB has room for the largest stream (spec/60_exceptions.md R226). -/
theorem compressible_of_mincs (hmincs : s.mincs = 8) (h1 : 1 ≤ s.len.toNat) (hmax : s.len.toNat ≤ s.params.maxPix)
    (hroom : 2 * s.len.toNat + 4 ≤ s.params.csbCap) : s.Compressible where
  mincs := by rw [hmincs]; decide
  len := ⟨h1, hmax⟩
  symbols i _ := by rw [hmincs]; exact (s.idxAt i).isLt
  room := by rw [hmincs]; exact (lzwStream_indexList_bounds s h1).2.trans hroom

/-- QNT's run under BUILD: the state in which LZW starts (spec/40_commands.md R121). -/
theorem qnt_runs_chained (hparams : s.params.Ok) (hhost : s.host = []) (hp : s.phase = phQCheck)
    (hchain : s.chain = true) (h1 : 1 ≤ s.pixelCount) (hmax : s.pixelCount ≤ s.params.maxPix)
    (hlen : s.pixlen.toNat = 4 * s.pixelCount) :
    ∃ t : State, run (4 + s.pixelCount) s = .next t ∧
      t =
        { s with
          status := s.status.chainedTo .lzw
          phase := phLCheck
          len := t.len
          ncol := t.ncol
          count := t.count
          stride := t.stride
          nsmp := t.nsmp
          smp := t.smp
          ncolw := t.ncolw
          pal := t.pal
          idx := t.idx
          draws := t.draws
          pos := t.pos } ∧
      t.len.toNat = s.pixelCount ∧
      (let cols := cut 8 (s.sampledColours s.pixelCount);
        t.ncol.toNat = cols.length ∧ ∀ i, i < 256 → t.palEntry i = cols.getD i black) ∧
      ∀ p, p < s.pixelCount → IsNearest t.palEntry (s.col p) (t.idxAt p).toNat := by
  obtain ⟨v, hrun, hframe, hcount, hpalette, hmapped⟩ := qnt_runs hparams hhost hp h1 hmax hlen
  rw [finishQnt_chained (by rw [hframe]; exact hchain)] at hrun
  refine ⟨_, hrun, ?_, hcount, ⟨hpalette.ncolw, hpalette.entry⟩, hmapped⟩
  rw [hframe]

theorem State.csbList_length (s : State) (n : Nat) : (s.csbList n).length = n := by
  rw [State.csbList, List.length_map, List.length_range]

/-- LZW's run under BUILD: the state in which FRM starts (spec/40_commands.md R121). -/
theorem lzw_runs_chained (hparams : s.params.Ok) (hhost : s.host = []) (hp : s.phase = phLCheck)
    (hchain : s.chain = true) (hmincs : s.mincs = 8) (h1 : 1 ≤ s.len.toNat) (hmax : s.len.toNat ≤ s.params.maxPix)
    (hroom : 2 * s.len.toNat + 4 ≤ s.params.csbCap) :
    ∃ t : State, run (s.len.toNat + 4) s = .next t ∧
      t =
        { s.withCoder t with
          status := s.status.chainedTo .frm
          phase := phFCheck
          csblen := t.csblen
          draws := t.draws } ∧
      t.csbList t.csblen.toNat = lzwStream 8 (s.indexList s.len.toNat) ∧ 1 ≤ t.csblen.toNat ∧
      t.csblen.toNat ≤ 2 * s.len.toNat + 4 := by
  obtain ⟨t, hrun, hends, hcsb⟩ := lzw_runs (compressible_of_mincs hmincs h1 hmax hroom) hparams hhost hp
  obtain ⟨hstatus, hphase⟩ := hends.chained hchain
  have hframe := hends.frame
  rw [hstatus, hphase] at hframe
  have hbounds := lzwStream_indexList_bounds s h1
  have hmcs : s.mincs.toNat = 8 := by rw [hmincs]; rfl
  rw [hmcs] at hcsb
  rw [← hcsb, t.csbList_length] at hbounds
  exact ⟨t, hrun, hframe, hcsb, hbounds⟩

/-- The three units in turn, from QNT's first step under BUILD. -/
theorem build_runs (hparams : s.params.Ok) (hhost : s.host = []) (hp : s.phase = phQCheck) (hchain : s.chain = true)
    (hmincs : s.mincs = 8) (h1 : 1 ≤ s.pixelCount) (hmax : s.pixelCount ≤ s.params.maxPix)
    (hlen : s.pixlen.toNat = 4 * s.pixelCount) (hcsb : 2 * s.pixelCount + 4 ≤ s.params.csbCap)
    (hgif : 802 + (2 * s.pixelCount + 4) + (2 * s.pixelCount + 4 + 254) / 255 ≤ s.params.gifCap) :
    ∃ t : State, run (14 + 2 * s.pixelCount + (t.csblen.toNat + 254) / 255) s = .next t ∧ s.Keeps t ∧
      t.status = ⟨false, true, s.status.err, s.status.errCode, 2⟩ ∧ t.chain = false ∧ t.phase = 0 ∧
      t.len.toNat = s.pixelCount ∧
      (let cols := cut 8 (s.sampledColours s.pixelCount);
        t.ncol.toNat = cols.length ∧ ∀ i, i < 256 → t.palEntry i = cols.getD i black) ∧
      (∀ p, p < s.pixelCount → IsNearest t.palEntry (s.col p) (t.idxAt p).toNat) ∧
      t.csbList t.csblen.toNat = lzwStream 8 (t.indexList s.pixelCount) ∧
      (List.range t.giflen.toNat).map t.gifAt =
        gifFile s.width s.height t.palList (t.csbList t.csblen.toNat) := by
  obtain ⟨a, ha, hfa, hcount, hpalette, hmapped⟩ := qnt_runs_chained hparams hhost hp hchain h1 hmax hlen
  have hka : s.Keeps a := by rw [hfa]; exact { State.Keeps.refl s with }
  obtain ⟨b, hb, hfb, hstream, hpositive, hlong⟩ :=
    lzw_runs_chained (s := a) (hka.params ▸ hparams) (hka.host.trans hhost) (by rw [hfa]) (by rw [hfa]; exact hchain)
      (hka.mincs.trans hmincs) (by omega) (by rw [hka.params]; omega) (by rw [hka.params]; omega)
  have hkb : s.Keeps b := by rw [hfb]; exact { hka with }
  have hne : ¬(b.width = 0 ∨ b.height = 0 ∨ b.csblen = 0) := by
    rw [hkb.width, hkb.height]
    rintro (h0 | h0 | h0)
    · simp [State.pixelCount, h0] at h1
    · simp [State.pixelCount, h0] at h1
    · rw [h0] at hpositive
      exact absurd hpositive (by decide)
  obtain ⟨t, ht, hft, -, hfile, -, hidx⟩ :=
    frm_runs (s := b) (hkb.params ▸ hparams) (hkb.host.trans hhost) (by rw [hfb]) (hkb.mincs.trans hmincs) hne
      (by rw [hkb.params]; omega) (by rw [hkb.params]; omega)
  have hcsblen : t.csblen = b.csblen := by rw [hft]
  have hcsbList : ∀ n, t.csbList n = b.csbList n := fun n => by rw [hft]; rfl
  have hncol : t.ncol = a.ncol := by rw [hft, hfb]
  have hlen' : b.len = a.len := by rw [hfb]
  have hentry : t.palEntry = a.palEntry := by rw [hft, hfb]; rfl
  have hpalList : t.palList = b.palList := by rw [hft]; rfl
  have hindex : ∀ p, p < s.pixelCount → t.idxAt p = a.idxAt p := fun p hp => by
    rw [hidx p (by rw [hlen']; omega), hfb]
    rfl
  have hindices : t.indexList s.pixelCount = a.indexList s.pixelCount :=
    List.map_congr_left fun p hp => congrArg BitVec.toNat (hindex p (List.mem_range.1 hp))
  have hsteps : 14 + 2 * s.pixelCount + (b.csblen.toNat + 254) / 255 =
      4 + s.pixelCount + (a.len.toNat + 4 + (6 + (b.csblen.toNat + 254) / 255)) := by omega
  refine ⟨t, ?run, ?keeps, ?status, ?chain, ?phase, ?len, ?palette, fun p hp => ?index, ?stream, ?file⟩
  case run => rw [hcsblen, hsteps, run_add ha, run_add hb, ht]
  case keeps =>
    rw [hft]
    exact { hkb with }
  case status =>
    rw [hft, hfb, hfa]
    rfl
  case chain => rw [hft]
  case phase => rw [hft]
  case len =>
    rw [hft, hfb]
    exact hcount
  case palette =>
    rw [hncol, hentry]
    exact hpalette
  case index =>
    rw [hentry, hindex p hp]
    exact hmapped p hp
  case stream => rw [hcsbList, hcsblen, hstream, hcount, hindices]
  case file => rw [hfile, hkb.width, hkb.height, hpalList, hcsbList, hcsblen]

/-- Settles O52: QNT hands the indices to LZW, LZW the stream to FRM. -/
theorem buildRun : Obligations.BuildRun := by
  unfold Obligations.BuildRun
  intro s hparams hidle hhost h1 hmax hlen hcsb hgif
  obtain ⟨t, hrun, hkeeps, hstatus, hchain, hphase, hrest⟩ :=
    build_runs (s := { s with ncol := 0, csblen := 0, giflen := 0, mincs := gifMincs }.launch .qnt true phQCheck)
      hparams hhost rfl rfl rfl h1 hmax hlen hcsb hgif
  exact ⟨_, t, accepted_idle hidle, hrun, hstatus, hchain, hphase, hkeeps.mincs, hkeeps.ie, hkeeps.width,
    hkeeps.height, hkeeps.pixlen, hkeeps.pix, hrest⟩

end Sys2Proof.Machine
end
